-- ==== Sys2Proof/Word.lean ====
section
/-! DEFINITION. The widths of the block (00_scope.md R19, R22) and the plain records of data that its
rules name: PayloadValue, RemoteIdentity, Command, Segment, the two wire forms, the pin values of
one `clk` cycle and the port events that a cycle carries. -/

namespace Sys2Proof

/-- A serial byte, bit 7 the most significant (R22). -/
abbrev Byte := BitVec 8

/-- A PayloadValue: 2 bits, unsigned, 0 to 3 (R19). -/
abbrev PV := BitVec 2

/-- A RemoteIdentity: 13 PayloadValues (R19), in both protocols (R202). -/
abbrev Identity := Vector PV 13

/-- A Command (10_state.md R47). The selector is the whole first byte (90_conflicts.md C4). -/
structure Command where
  sel    : Byte
  state  : PV
  group  : PV
  device : PV
deriving DecidableEq, Repr, Inhabited

/-- A segment `(l, d)` of the output line: level `l` held for `d` time units (30_encoding.md R89). -/
structure Segment where
  level : Bool
  dur   : Nat
deriving DecidableEq, Repr, Inhabited

/-- The short wire form, 2 bytes `SSSSSSSS xxggddss` (30_encoding.md R82). -/
structure ShortForm where
  sel    : Byte
  rsv    : PV
  group  : PV
  device : PV
  state  : PV
deriving DecidableEq, Repr, Inhabited

/-- The long wire form, 5 bytes `00000000 rrrrrrrr rrrrrrrr rrrrrrrr rrggddss` (30_encoding.md R83). -/
structure LongForm where
  ident  : Identity
  group  : PV
  device : PV
  state  : PV
deriving DecidableEq, Repr, Inhabited

/-- The values of the input pins in one `clk` cycle (10_state.md R31). -/
structure Pins where
  rst  : Bool
  sclk : Bool
  sdi  : Bool
  ssn  : Bool
  tick : Bool
deriving DecidableEq, Repr, Inhabited

/-- The serial pins of one cycle, which the host's timing duty concerns (70_reset_and_hazards.md R269). -/
structure SerialPins where
  sclk : Bool
  sdi  : Bool
  ssn  : Bool
deriving DecidableEq, Repr, Inhabited

/-- What one cycle shows of the port events of 30_encoding.md R92: `rst`; the synchronized `ss_n`; a
`SAMPLE_EDGE` of the synchronized `sclk`; the synchronized `sdi`; whether a SAMPLE now would be
the eighth (`rx.count = 7`); `tick`; and whether it is the last cycle of a segment. -/
structure PortWord where
  rst    : Bool
  ssn    : Bool
  edge   : Bool
  sdi    : Bool
  eighth : Bool
  tick   : Bool
  segEnd : Bool
deriving DecidableEq, Repr, Inhabited

end Sys2Proof
end

