-- ==== Sys2Proof/Config.lean ====
section
/-! DEFINITION. The build-time configuration (00_scope.md R6 to R18), the free values, and the
configuration that `State.reset` carries: the spec's own test configuration. -/

namespace Sys2Proof

/-- The output pulse protocol (R6). -/
inductive Protocol where
  | long
  | short
deriving DecidableEq, Repr, Inhabited

/-- The edge of the serial clock on which the receiver samples (R18). -/
inductive SampleEdge where
  | rising
  | falling
deriving DecidableEq, Repr, Inhabited

/-- The whole set of build-time parameters (R6 to R18). The spec's own default stands where it gives
one; a parameter the spec leaves OPEN has no default here. PROFILES[k] is `profiles[k - 1]`, so
that NUM_PROFILES is one more than the length of `profiles` (profile 0 is the custom slot, R13). -/
structure Config where
  /-- PROTOCOL (R6). -/
  protocol : Protocol := .long
  /-- T, the length of every high pulse in time units (R7). -/
  t : Nat := 250
  /-- ZERO_LOW_MULT (R8). -/
  zeroLowMult : Nat := 1
  /-- ONE_LOW_MULT (R8). -/
  oneLowMult : Nat := 5
  /-- INIT_LOW_MULT (R8). -/
  initLowMult : Nat := 10
  /-- GAP_MULT (R9). -/
  gapMult : Nat := 40
  /-- REPEAT (R10): OPEN. -/
  repeatCount : Nat
  /-- C, the ReceiveBuffer capacity in bytes (R11). -/
  capacity : Nat := 5
  /-- TH, the idle threshold in ticks (R12). -/
  idleThreshold : Nat := 4
  /-- PROFILES[1], PROFILES[2], … (R13): OPEN. -/
  profiles : List Identity
  /-- SYMBOL_TABLE_LONG (R14): a pattern's most significant bit is emitted first. -/
  symbolTableLong : Vector (BitVec 4) 4 := #v[0b0101, 0b0110, 0b1001, 0b1010]
  /-- SYMBOL_TABLE_SHORT (R15). -/
  symbolTableShort : Vector (BitVec 2) 4 := #v[0b00, 0b01, 0b10, 0b11]
  /-- SHORT_LONG_LOW_MULT (R15). -/
  shortLongLowMult : Nat := 5
  /-- SHORT_ONE_LONG_GAP_FIRST (R15): OPEN; `none` where it is not given (under LONG). -/
  shortOneLongGapFirst : Option Bool
  /-- K, CYCLES_PER_UNIT (R16): OPEN. -/
  cyclesPerUnit : Nat
  /-- P, TICK_PERIOD (R17): OPEN; the block never reads it. -/
  tickPeriod : Nat
  /-- SAMPLE_EDGE (R18). -/
  sampleEdge : SampleEdge := .rising
deriving DecidableEq, Repr

/-- NUM_PROFILES (R13), which counts the custom slot (92_eei_decisions.md D13). -/
def Config.numProfiles (c : Config) : Nat := c.profiles.length + 1

/-- FREE VALUE. PROFILE(k) for k ≥ NUM_PROFILES is undefined and never evaluated (10_state.md R40,
93_implementation_defined.md U22): nothing constrains it. -/
opaque Config.freeProfile : Nat → Identity

/-- FREE VALUE. Which bit value of the SHORT protocol has its long gap first, in a configuration that
does not give SHORT_ONE_LONG_GAP_FIRST (R15: OPEN, no default). -/
opaque Config.freeGapFirst : Bool

/-- PROFILES[1] of the test configuration (95_test_vectors.md section 0). -/
def Config.tcProfile : Identity := #v[3, 2, 1, 0, 3, 2, 1, 0, 3, 2, 1, 0, 3]

/-- The test configuration TC of 95_test_vectors.md section 0. DESIGN CHOICE (log 3): it is the
configuration of `State.reset`; K and P, which TC does not give, are those of its section 2.9. -/
def Config.tc : Config :=
  { repeatCount := 1
    profiles := [Config.tcProfile]
    shortOneLongGapFirst := none
    cyclesPerUnit := 2
    tickPeriod := 5 }

end Sys2Proof
end

