-- ==== Sys2Proof/Syntax.lean ====
section
/-! DEFINITION. The operation set of the block: one constructor per row of spec/opcode_table.json
(30_encoding.md R93), in the table's order, with the operands its rule gives it. -/

namespace Sys2Proof

/-- The operations (R2, R93). The bytes that CMD_SHORT and CMD_LONG read after the first are popped
from the ReceiveBuffer by the operation itself (43_command_decoder.md R161, R162), so they are no
operands here; the whole wire forms are `ShortForm` and `LongForm`. -/
inductive Instr where
  /-- SAMPLE(bit), R100. -/
  | sample (bit : Bool)
  /-- BYTE_DONE(b), R101. -/
  | byteDone (b : Byte)
  /-- DESELECT, R102. -/
  | deselect
  /-- PUSH(b), R120. -/
  | push (b : Byte)
  /-- POP, R121. -/
  | pop
  /-- IS_EMPTY, R122. -/
  | isEmpty
  /-- IS_FULL, R122. -/
  | isFull
  /-- ON_BYTE(b), R140. -/
  | onByte (b : Byte)
  /-- BT_RESTART, R141. -/
  | btRestart
  /-- ON_TICK, R142. -/
  | onTick
  /-- FIRE, R143. -/
  | fire
  /-- DECODE, R160. -/
  | decode
  /-- CMD_SHORT(sel), R161. -/
  | cmdShort (sel : Byte)
  /-- CMD_LONG, R162. -/
  | cmdLong
  /-- EMIT_ZERO, R181. -/
  | emitZero
  /-- EMIT_ONE, R182. -/
  | emitOne
  /-- EMIT_INIT, R183. -/
  | emitInit
  /-- EMIT_END_GAP, R184. -/
  | emitEndGap
  /-- EMIT_SBIT0, R185. -/
  | emitSbit0
  /-- EMIT_SBIT1, R185. -/
  | emitSbit1
  /-- SEND(cmd), R200. -/
  | send (cmd : Command)
  /-- TX_STEP, R204. -/
  | txStep
  /-- RESET, R260. -/
  | reset
deriving DecidableEq, Repr, Inhabited

end Sys2Proof
end

