-- ==== Sys2Proof/WellFormed.lean ====
section
/-! DEFINITION. What the spec refuses as ill formed: an operation whose operand its format forbids
(opcode_table.json, row CMD_SHORT: `SSSSSSSS != 00000000`) and a configuration outside 00_scope.md
R20. Widths, the 13 entries of a profile and the 4 entries of a table hold by type. -/

namespace Sys2Proof

/-- An operation is well formed: CMD_SHORT's selector is not 0 (30_encoding.md R81, R82); every other
operand may take every value of its width. -/
def Instr.wellFormed : Instr → Bool
  | .sample _ => true
  | .byteDone _ => true
  | .deselect => true
  | .push _ => true
  | .pop => true
  | .isEmpty => true
  | .isFull => true
  | .onByte _ => true
  | .btRestart => true
  | .onTick => true
  | .fire => true
  | .decode => true
  | .cmdShort sel => sel != 0
  | .cmdLong => true
  | .emitZero => true
  | .emitOne => true
  | .emitInit => true
  | .emitEndGap => true
  | .emitSbit0 => true
  | .emitSbit1 => true
  | .send _ => true
  | .txStep => true
  | .reset => true

/-- The entries of a table are pairwise distinct. -/
def pairwiseDistinct {α : Type} [DecidableEq α] : List α → Bool
  | [] => true
  | x :: xs => !xs.contains x && pairwiseDistinct xs

/-- The part of R20 that concerns the SHORT protocol only. -/
def Config.shortWellFormed (c : Config) : Bool :=
  pairwiseDistinct c.symbolTableShort.toList && decide (2 ≤ c.shortLongLowMult)
    && c.shortOneLongGapFirst.isSome

/-- A configuration is well formed (R20). -/
def Config.wellFormed (c : Config) : Bool :=
  decide (1 ≤ c.t) && decide (1 ≤ c.zeroLowMult) && decide (1 ≤ c.oneLowMult)
    && decide (1 ≤ c.initLowMult) && decide (1 ≤ c.gapMult)
    && decide (c.zeroLowMult ≠ c.oneLowMult)
    && decide (1 ≤ c.capacity) && decide (1 ≤ c.idleThreshold)
    && decide (1 ≤ c.numProfiles) && decide (c.numProfiles ≤ 256)
    && pairwiseDistinct c.symbolTableLong.toList
    && (match c.protocol with
        | .long => true
        | .short => c.shortWellFormed)
    && decide (1 ≤ c.cyclesPerUnit)

/-- A short wire form is well formed: its selector is not 0 (R82). -/
def ShortForm.wellFormed (f : ShortForm) : Bool := f.sel != 0

end Sys2Proof
end

