-- ==== Sys2Proof/Decode.lean ====
section
/-! DEFINITION. From encodings to operations, and back (30_encoding.md). Three kinds of operation have
an encoding: the wire commands (bursts of bytes, R80 to R87), the port events of a cycle (R92) and
the output symbols (R88). The internal operations have none: the opcode table gives each only its
caller. Decoding is total and refuses nothing, because no byte sequence is illegal (R87). -/

namespace Sys2Proof

/-! ## Operand fields (R84) -/

/-- `PV(b, k) = b[7-2k : 6-2k]`, the k-th PayloadValue of a byte, most significant first (R84). -/
def pv (b : Byte) (k : Nat) : PV := b.extractLsb' (6 - 2 * k) 2

/-- Four PayloadValues packed into a byte, the first in bits 7 and 6 (R84). -/
def packPvs (v0 v1 v2 v3 : PV) : Byte := v0 ++ v1 ++ v2 ++ v3

/-! ## Wire forms (R82, R83) -/

/-- The fields of the short form's two bytes (R82). -/
def decodeShort (b0 b1 : Byte) : ShortForm :=
  { sel := b0, rsv := pv b1 0, group := pv b1 1, device := pv b1 2, state := pv b1 3 }

/-- The two bytes of a short form (R82). -/
def encodeShort (f : ShortForm) : List Byte := [f.sel, packPvs f.rsv f.group f.device f.state]

/-- The 13 identity values of the long form: slots 4j to 4j+3 from byte j+1, slot 12 from the top two
bits of byte 4 (R83, 43_command_decoder.md R162). -/
def identOfBytes (b1 b2 b3 b4 : Byte) : Identity :=
  #v[pv b1 0, pv b1 1, pv b1 2, pv b1 3,
     pv b2 0, pv b2 1, pv b2 2, pv b2 3,
     pv b3 0, pv b3 1, pv b3 2, pv b3 3,
     pv b4 0]

/-- The fields of the long form's bytes after the first, which is 0 (R83). -/
def decodeLong (b1 b2 b3 b4 : Byte) : LongForm :=
  { ident := identOfBytes b1 b2 b3 b4, group := pv b4 1, device := pv b4 2, state := pv b4 3 }

/-- The five bytes of a long form (R83). -/
def encodeLong (f : LongForm) : List Byte :=
  [0, packPvs f.ident[0] f.ident[1] f.ident[2] f.ident[3],
   packPvs f.ident[4] f.ident[5] f.ident[6] f.ident[7],
   packPvs f.ident[8] f.ident[9] f.ident[10] f.ident[11],
   packPvs f.ident[12] f.group f.device f.state]

/-- The format of a burst is chosen by its first byte alone (R81); the answer is the command with the
bytes it has still to pop. A burst with no byte reads as the sentinel 0 (R87,
43_command_decoder.md R160). -/
def decodeBurst : List Byte → Instr × List Byte
  | [] => (.cmdLong, [])
  | b0 :: rest => if b0 = 0 then (.cmdLong, rest) else (.cmdShort b0, rest)

/-! ## Port events of a cycle (R92) and their order (42_burst_timer.md R144) -/

/-- The receiver's operation in a cycle (40_serial_receiver.md R103): DESELECT while deselected, else
SAMPLE at a sampling edge. -/
def receiverOps (w : PortWord) : List Instr :=
  if w.ssn then [.deselect] else if w.edge then [.sample w.sdi] else []

/-- The cycle carries a BYTE_DONE: a SAMPLE that is the eighth of its byte (R103, R101). -/
def byteEvent (w : PortWord) : Bool := !w.ssn && w.edge && w.eighth

/-- The operations a cycle carries, in the order they act: reset alone when `rst` = 1 (10_state.md
R32); else the receiver, then the tick unless a byte arrived, then the end of a segment (R144). -/
def decodePort (w : PortWord) : List Instr :=
  if w.rst then [.reset]
  else receiverOps w ++ (if w.tick && !byteEvent w then [.onTick] else [])
    ++ (if w.segEnd then [.txStep] else [])

/-- A cycle in which nothing happens. -/
def PortWord.quiet : PortWord :=
  { rst := false, ssn := false, edge := false, sdi := false, eighth := false, tick := false,
    segEnd := false }

/-- The cycle that carries exactly one port event (R92). -/
def encodePort : Instr → Option PortWord
  | .sample bit => some { PortWord.quiet with edge := true, sdi := bit }
  | .deselect => some { PortWord.quiet with ssn := true }
  | .onTick => some { PortWord.quiet with tick := true }
  | .txStep => some { PortWord.quiet with segEnd := true }
  | .reset => some { PortWord.quiet with rst := true }
  | .byteDone _ | .push _ | .pop | .isEmpty | .isFull | .onByte _ | .btRestart | .fire | .decode
  | .cmdShort _ | .cmdLong | .emitZero | .emitOne | .emitInit | .emitEndGap | .emitSbit0
  | .emitSbit1 | .send _ => none

/-! ## Output symbols (R88) -/

/-- A pattern bit is emitted as Zero or One under LONG and as SBIT0 or SBIT1 under SHORT (R88). -/
def decodeSymbol : Protocol → Bool → Instr
  | .long, false => .emitZero
  | .long, true => .emitOne
  | .short, false => .emitSbit0
  | .short, true => .emitSbit1

/-! ## All encodings together -/

/-- What the opcode table's encodings are made of: a burst of bytes, a cycle of port events, a pattern
bit under a protocol, the start of a frame, the end of a frame. -/
inductive Encoding where
  | burst (bytes : List Byte)
  | port (w : PortWord)
  | patternBit (p : Protocol) (bit : Bool)
  | frameStart
  | frameEnd
deriving DecidableEq, Repr

/-- The operations that an encoding stands for. -/
def decode : Encoding → List Instr
  | .burst bytes => [(decodeBurst bytes).1]
  | .port w => decodePort w
  | .patternBit p bit => [decodeSymbol p bit]
  | .frameStart => [.emitInit]
  | .frameEnd => [.emitEndGap]

/-- The encoding of an operation, `operands` being the bytes that a wire command pops after its first;
`none` for an internal operation, to which the table gives only a caller. -/
def encode (i : Instr) (operands : List Byte) : Option Encoding :=
  match i with
  | .sample bit => (encodePort (.sample bit)).map .port
  | .byteDone _ => none
  | .deselect => (encodePort .deselect).map .port
  | .push _ => none
  | .pop => none
  | .isEmpty => none
  | .isFull => none
  | .onByte _ => none
  | .btRestart => none
  | .onTick => (encodePort .onTick).map .port
  | .fire => none
  | .decode => none
  | .cmdShort sel => some (.burst (sel :: operands))
  | .cmdLong => some (.burst (0 :: operands))
  | .emitZero => some (.patternBit .long false)
  | .emitOne => some (.patternBit .long true)
  | .emitInit => some .frameStart
  | .emitEndGap => some .frameEnd
  | .emitSbit0 => some (.patternBit .short false)
  | .emitSbit1 => some (.patternBit .short true)
  | .send _ => none
  | .txStep => (encodePort .txStep).map .port
  | .reset => (encodePort .reset).map .port

/-! ## Words as spec/opcode_table.json numbers them -/

/-- The bytes, in arrival order, of a burst word of `nbits` bits: the table numbers a burst as ONE word
whose most significant bit is the first on the wire (R80). -/
def bytesOfWord (nbits w : Nat) : List Byte :=
  (List.range (nbits / 8)).map (fun k => BitVec.ofNat 8 (w >>> (nbits - 8 * (k + 1))))

/-- The command of a burst word; `none` where the table gives no bits at all. -/
def decodeTableWord (nbits w : Nat) : Option Instr :=
  match bytesOfWord nbits w with
  | [] => none
  | b0 :: rest => some (decodeBurst (b0 :: rest)).1

end Sys2Proof
end

