-- ==== Sys2Proof/Machine/State.lean ====
section
/-! DEFINITION. The state of the block (10_state.md R33 to R50), the reasons a step can stop, and the
state after reset. Every field the spec names is here, at both levels of description; the fields
`cfg`, `ret`, `build`, `agenda` and `mon` are the model's own (INVENTORY.md, State). -/

namespace Sys2Proof.Machine

/-- Why a step stops with a fault. The block has no fault state (60_exceptions.md R230): both are raised
only in states that no run from reset reaches. -/
inductive Fault where
  /-- Raised by PUSH, POP and the operations that call them when the index of the access is not below
  C, where `MemRead` and `MemWrite` are not defined (20_memory.md R61). Safe. -/
  | ringAddress (i : Nat)
  /-- Raised by TX_STEP when a send is in progress and no segment is left: `head` of an empty waveform
  (45_frame_transmitter.md R204, 10_state.md R43). Safe. -/
  | emptyWave
deriving DecidableEq, Repr

/-- Why a step is refused. -/
inductive Refusal where
  /-- An operation that has no meaning yet; no arm of `exec` answers with it. Safe. -/
  | notModelled (mnemonic : String)
  /-- Raised by the step when the configuration is outside 00_scope.md R20 (U16). Safe. -/
  | illFormedConfig
  /-- Raised by the step for an operation whose operand its format forbids (R82). Safe. -/
  | illFormedOperation
  /-- Raised by the step for a BYTE at the byte abstraction while `rx.count ≠ 0`
  (40_serial_receiver.md R104, U19). Safe. -/
  | misalignedByte
  /-- Raised by the step for a cycle whose serial pins break the timing that the host must keep
  (70_reset_and_hazards.md R269, U18). Safe. -/
  | serialTiming
deriving DecidableEq, Repr

/-- Serial byte receiver (10_state.md R33). -/
structure Rx where
  shift : Byte
  count : BitVec 3
deriving DecidableEq, Repr

/-- Cycle-level synchronizer registers (10_state.md R34). -/
structure Sync where
  sclk1 : Bool
  sclk2 : Bool
  sclk3 : Bool
  sdi1  : Bool
  sdi2  : Bool
  ss1   : Bool
  ss2   : Bool
deriving DecidableEq, Repr

/-- The ring storage RBS as (address, byte) cells: addresses strictly rising, no entry 0x00, which is
what an unlisted address reads as (10_state.md R48: the reset contents). -/
abbrev Memory := List Host.Cell

/-- ReceiveBuffer (10_state.md R35, R36). -/
structure Ring where
  data : Memory
  size : Nat
  rd   : Nat
  wr   : Nat
deriving DecidableEq, Repr

/-- BurstTimer (10_state.md R38). -/
structure Timer where
  armed   : Bool
  elapsed : Nat
deriving DecidableEq, Repr

/-- FrameTransmitter (10_state.md R42, R43): `wave` is its position at the event level, `idx` and `cnt`
at the cycle level. -/
structure Tx where
  active : Bool
  cmd    : Command
  wave   : List Segment
  idx    : Nat
  cnt    : Nat
deriving DecidableEq, Repr

/-- What the last operation run on its own returned. The model's own (log 4). -/
inductive Ret where
  | none
  | byte (b : Byte)
  | bit (b : Bool)
  | command (c : Command)
deriving DecidableEq, Repr

/-- One entry of the agenda: what an agent does next (10_state.md R30). The model's own (log 2). -/
inductive Event where
  /-- One operation of the event level. -/
  | op (i : Instr)
  /-- BYTE(b) at the byte abstraction (40_serial_receiver.md R104). -/
  | byte (b : Byte)
  /-- TX produces TX_STEP events until no send is in progress (30_encoding.md R91, `WAIT_TX`). -/
  | waitTx
  /-- One cycle of `clk` with the values of the input pins (10_state.md R31, R32). -/
  | cycle (p : Pins)
deriving DecidableEq, Repr

/-- The recent history of the serial pins, for 70_reset_and_hazards.md R269: the pins of the last cycle
and, saturating at 3, how many cycles ago `sclk`, `sdi` and `ss_n` last changed and the last
sampling edge of `sclk` was. The model's own (log 11). -/
structure Monitor where
  last    : Option SerialPins
  sclkAge : Nat
  sdiAge  : Nat
  ssAge   : Nat
  edgeAge : Nat
deriving DecidableEq, Repr

structure State where
  /-- The build-time configuration: no step writes it (00_scope.md R21). -/
  cfg    : Config
  /-- `rx.*` (R33). -/
  rx     : Rx
  /-- `s_*` (R34). -/
  sync   : Sync
  /-- `rb.*` (R35, R36). -/
  rb     : Ring
  /-- `bt.*` (R38). -/
  bt     : Timer
  /-- `ps.custom` (R39). -/
  custom : Identity
  /-- `tx.*` (R42, R43). -/
  tx     : Tx
  /-- `obs.trace`, the observer's record (R49). -/
  trace  : List Segment
  /-- The value that the last operation run on its own returned (log 4). -/
  ret    : Ret
  /-- The waveform being built (44_pulse_encoder.md R180, log 4). -/
  build  : List Segment
  /-- What the agents do next, oldest first (R30, 20_memory.md R70, log 2). -/
  agenda : List Event
  /-- The serial pins' recent history (log 11). -/
  mon    : Monitor
deriving DecidableEq, Repr

/-! ## Writing one field -/

def State.setRx (s : State) (v : Rx) : State := { s with rx := v }
def State.setSync (s : State) (v : Sync) : State := { s with sync := v }
def State.setRb (s : State) (v : Ring) : State := { s with rb := v }
def State.setBt (s : State) (v : Timer) : State := { s with bt := v }
def State.setCustom (s : State) (v : Identity) : State := { s with custom := v }
def State.setTx (s : State) (v : Tx) : State := { s with tx := v }
def State.setTrace (s : State) (v : List Segment) : State := { s with trace := v }
def State.setRet (s : State) (v : Ret) : State := { s with ret := v }
def State.setBuild (s : State) (v : List Segment) : State := { s with build := v }
def State.setAgenda (s : State) (v : List Event) : State := { s with agenda := v }
def State.setMon (s : State) (v : Monitor) : State := { s with mon := v }

/-! ## Reset values (10_state.md R48) -/

def Rx.reset : Rx := { shift := 0x00, count := 0 }

def Sync.reset : Sync :=
  { sclk1 := false, sclk2 := false, sclk3 := false, sdi1 := false, sdi2 := false,
    ss1 := true, ss2 := true }

def Ring.reset : Ring := { data := [], size := 0, rd := 0, wr := 0 }

def Timer.reset : Timer := { armed := false, elapsed := 0 }

def customReset : Identity := #v[0, 0, 0, 0, 0, 0, 0, 0, 0, 0, 0, 0, 0]

def Tx.reset : Tx :=
  { active := false, cmd := { sel := 0, state := 0, group := 0, device := 0 }, wave := [],
    idx := 0, cnt := 1 }

/-- No history yet: nothing changed in the last 3 cycles. -/
def Monitor.start : Monitor :=
  { last := none, sclkAge := 3, sdiAge := 3, ssAge := 3, edgeAge := 3 }

/-- The machine right after reset in configuration `c`, with nothing observed and nothing pending. -/
def State.resetOf (c : Config) : State :=
  { cfg := c, rx := Rx.reset, sync := Sync.reset, rb := Ring.reset, bt := Timer.reset,
    custom := customReset, tx := Tx.reset, trace := [], ret := .none, build := [],
    agenda := [], mon := Monitor.start }

/-- The machine right after reset. DESIGN CHOICE (log 3): its configuration is the spec's test
configuration; for any other build it is `State.resetOf`. -/
def State.reset : State := State.resetOf Config.tc

end Sys2Proof.Machine
end

