-- ==== Sys2Proof/Machine/Ops.lean ====
section
/-! DEFINITION. The named operations over storage and registers: bytes of RBS (20_memory.md R61), the
ring's Push and Pop (41_receive_buffer.md R120, R121), the timer's restart and clear (42_burst_timer.md
R141, R143), the reset of every register (70_reset_and_hazards.md R260). The block takes no
exception and returns from none (60_exceptions.md R230); its one counterpart, entering the fire
handler (R239), is `fireOp` in Machine/Timer.lean. -/

namespace Sys2Proof.Machine

/-- An operation's outcome as a step's outcome. -/
def settle : Except Fault State → Host.Outcome State Fault Refusal
  | .ok s => .next s
  | .error f => .fault f

/-- The outcome of an operation that returns a value: the value goes to `ret` (log 4). -/
def settleWith {α : Type} (wrap : α → Ret) :
    Except Fault (α × State) → Host.Outcome State Fault Refusal
  | .ok (v, s) => .next (s.setRet (wrap v))
  | .error f => .fault f

/-! ## Bytes of RBS -/

/-- The byte at an address; an unlisted address reads as 0x00 (10_state.md R48). -/
def Memory.read : Memory → Nat → Byte
  | [], _ => 0
  | (k, v) :: m, a => if a = k then v else Memory.read m a

/-- Store one byte, keeping the canonical form. -/
def Memory.write : Memory → Nat → Byte → Memory
  | [], a, b => if b = 0 then [] else [(a, b)]
  | (k, v) :: m, a, b =>
    if a < k then (if b = 0 then (k, v) :: m else (a, b) :: (k, v) :: m)
    else if a = k then (if b = 0 then m else (a, b) :: m)
    else (k, v) :: Memory.write m a b

/-- Addresses strictly above `lo` and rising, and no entry 0x00. -/
def Memory.wfAbove : Nat → Memory → Bool
  | _, [] => true
  | lo, (k, v) :: m => decide (lo ≤ k) && v != 0 && Memory.wfAbove (k + 1) m

/-- The canonical form: addresses strictly rising, no entry equal to what an unlisted address reads as. -/
def Memory.wf (m : Memory) : Bool := Memory.wfAbove 0 m

/-- `MemRead(RBS, i, 1)`, defined for i < C (20_memory.md R61). -/
def ringRead (s : State) (i : Nat) : Except Fault Byte :=
  if i < s.cfg.capacity then .ok (s.rb.data.read i) else .error (.ringAddress i)

/-- `MemWrite(RBS, i, 1, b)`, defined for i < C (20_memory.md R61). -/
def ringWrite (s : State) (i : Nat) (b : Byte) : Except Fault Memory :=
  if i < s.cfg.capacity then .ok (s.rb.data.write i b) else .error (.ringAddress i)

/-! ## ReceiveBuffer -/

/-- PUSH (41_receive_buffer.md R120): a full buffer drops the byte. -/
def pushByte (b : Byte) (s : State) : Except Fault State :=
  if s.rb.size = s.cfg.capacity then .ok s
  else
    match ringWrite s s.rb.wr b with
    | .error f => .error f
    | .ok m => .ok (s.setRb { s.rb with
        data := m, wr := (s.rb.wr + 1) % s.cfg.capacity, size := s.rb.size + 1 })

/-- POP (41_receive_buffer.md R121): an empty buffer answers the sentinel 0x00 and changes nothing. -/
def popByte (s : State) : Except Fault (Byte × State) :=
  if s.rb.size = 0 then .ok (0, s)
  else
    match ringRead s s.rb.rd with
    | .error f => .error f
    | .ok b => .ok (b, s.setRb { s.rb with
        rd := (s.rb.rd + 1) % s.cfg.capacity, size := s.rb.size - 1 })

/-- The ring that holds exactly the first C of the given bytes, oldest first, from slot 0. -/
def Ring.ofBytes (capacity : Nat) (bytes : List Byte) : Ring :=
  let kept := bytes.take capacity
  { data := kept.zipIdx.foldl (fun m cell => m.write cell.2 cell.1) []
    size := kept.length, rd := 0, wr := kept.length % capacity }

/-! ## BurstTimer -/

/-- BT_RESTART (42_burst_timer.md R141): arm the timer and clear its count. -/
def restartTimer (s : State) : State := s.setBt { armed := true, elapsed := 0 }

/-- The first two statements of FIRE (42_burst_timer.md R143): disarm the timer and clear its count. -/
def disarmTimer (s : State) : State := s.setBt { armed := false, elapsed := 0 }

/-! ## Reset -/

/-- Every field of 10_state.md R48 at its reset value; the observer's record, the pending events, the
pins' history and the model's own `ret` and `build` are no such field (70_reset_and_hazards.md
R260). -/
def resetBlock (s : State) : State :=
  { s with rx := Rx.reset, sync := Sync.reset, rb := Ring.reset, bt := Timer.reset,
           custom := customReset, tx := Tx.reset }

end Sys2Proof.Machine
end

