-- ==== Sys2Proof/Machine/Operands.lean ====
section
/-! DEFINITION. What the operations read besides the ring: the profile of a selector (10_state.md R40),
the pattern of a PayloadValue (R41, 30_encoding.md R90), the payload of a frame
(45_frame_transmitter.md R201, R202), the Command of a wire form (43_command_decoder.md R161, R162). -/

namespace Sys2Proof.Machine

/-- `PROFILE(k)`: the custom slot for k = 0, the configuration's constant otherwise; beyond NUM_PROFILES
a free value (10_state.md R40, log 7). -/
def profileOf (c : Config) (custom : Identity) (k : Nat) : Identity :=
  if k = 0 then custom else (c.profiles[k - 1]?).getD (Config.freeProfile k)

/-- The bits of a pattern, the leftmost (most significant), which is emitted first, at the head
(00_scope.md R22). -/
def patternBits {w : Nat} (p : BitVec w) : List Bool := (List.range w).map p.getMsbD

/-- `SYMBOL_TABLE_LONG[v]` (00_scope.md R14). -/
def longPattern (c : Config) (v : PV) : BitVec 4 := c.symbolTableLong.get v.toFin

/-- `SYMBOL_TABLE_SHORT[v]` (00_scope.md R15). -/
def shortPattern (c : Config) (v : PV) : BitVec 2 := c.symbolTableShort.get v.toFin

/-- SHORT_ONE_LONG_GAP_FIRST, a free value where it is not given (00_scope.md R15, log 8). -/
def oneLongGapFirst (c : Config) : Bool := c.shortOneLongGapFirst.getD Config.freeGapFirst

/-- The 16 PayloadValues of a frame in the order they are sent: the identity, then state, group, device
(45_frame_transmitter.md R201). -/
def payload (ident : Identity) (cmd : Command) : List PV :=
  ident.toList ++ [cmd.state, cmd.group, cmd.device]

/-- The Command of a short form (43_command_decoder.md R161); the reserved bits are not read. -/
def commandOfShort (f : ShortForm) : Command :=
  { sel := f.sel, state := f.state, group := f.group, device := f.device }

/-- The Command of a long form (43_command_decoder.md R162). -/
def commandOfLong (f : LongForm) : Command :=
  { sel := 0, state := f.state, group := f.group, device := f.device }

end Sys2Proof.Machine
end

