-- ==== Sys2Proof/Machine/Flags.lean ====
section
/-! DEFINITION. What is computed from the state and held nowhere: the status signals `rb.empty` and
`rb.full` (10_state.md R37), the mode (R45), the output line (R44), quiescence
(70_reset_and_hazards.md R273), and the three silent conditions (60_exceptions.md R230 to R233). -/

namespace Sys2Proof.Machine

/-- `rb.empty`, IsEmpty() (10_state.md R37, 41_receive_buffer.md R122). -/
def ringEmpty (s : State) : Bool := decide (s.rb.size = 0)

/-- `rb.full`, IsFull() (10_state.md R37, 41_receive_buffer.md R122). -/
def ringFull (s : State) : Bool := decide (s.rb.size = s.cfg.capacity)

/-- The modes (10_state.md R45). -/
inductive Mode where
  | idle
  | accumulating
  | transmitting
deriving DecidableEq, Repr

/-- The mode, derived from `tx.active` and `bt.armed` (10_state.md R45). -/
def modeOf (s : State) : Mode :=
  if s.tx.active then .transmitting else if s.bt.armed then .accumulating else .idle

/-- `tx_out` (10_state.md R44): low when no send is in progress, else the current segment's level. -/
def txOut (s : State) : Bool :=
  s.tx.active && (match s.tx.wave with
    | [] => false
    | seg :: _ => seg.level)

/-- A run is quiescent (70_reset_and_hazards.md R273). -/
def quiescent (s : State) : Bool := !s.tx.active && !s.bt.armed && s.rx.count == 0

/-- The silent conditions (60_exceptions.md R230); no register holds them. -/
inductive Condition where
  | overflow
  | underrun
  | selector
deriving DecidableEq, Repr

/-- The codes of E_OVF, E_UNF and E_SEL (60_exceptions.md R230). -/
def Condition.code : Condition → Nat
  | .overflow => 1
  | .underrun => 2
  | .selector => 3

/-- E_OVF: a PUSH now would drop its byte (60_exceptions.md R231). -/
def overflows (s : State) : Bool := ringFull s

/-- E_UNF: a POP now would answer the sentinel (60_exceptions.md R232). -/
def underruns (s : State) : Bool := ringEmpty s

/-- E_SEL: a SEND of this command would be dropped (60_exceptions.md R233). -/
def selectorOutOfRange (c : Config) (cmd : Command) : Bool := decide (c.numProfiles ≤ cmd.sel.toNat)

end Sys2Proof.Machine
end

