-- ==== Sys2Proof/Machine/Buffer.lean ====
section
/-! DEFINITION. ReceiveBuffer operations run on their own (41_receive_buffer.md R120 to R122). -/

namespace Sys2Proof.Machine

/-- PUSH (R120). -/
def execPush (b : Byte) (s : State) : Host.Outcome State Fault Refusal := settle (pushByte b s)

/-- POP (R121). -/
def execPop (s : State) : Host.Outcome State Fault Refusal := settleWith Ret.byte (popByte s)

/-- IS_EMPTY (R122). -/
def execIsEmpty (s : State) : Host.Outcome State Fault Refusal :=
  settleWith Ret.bit (.ok (ringEmpty s, s))

/-- IS_FULL (R122). -/
def execIsFull (s : State) : Host.Outcome State Fault Refusal :=
  settleWith Ret.bit (.ok (ringFull s, s))

end Sys2Proof.Machine
end

