-- ==== Sys2Proof/Machine/Environment.lean ====
section
/-! DEFINITION. RESET (70_reset_and_hazards.md R260). -/

namespace Sys2Proof.Machine

/-- RESET (R260). -/
def execReset (s : State) : Host.Outcome State Fault Refusal := .next (resetBlock s)

end Sys2Proof.Machine
end

