-- ==== Sys2Proof/Machine/Decoder.lean ====
section
/-! DEFINITION. CommandDecoder (43_command_decoder.md R160 to R166). A missing byte reads as the sentinel
and decoding goes on (R163); surplus bytes stay in the buffer (R164). -/

namespace Sys2Proof.Machine

/-- CMD_SHORT (R161): the second byte is popped here, the custom slot is not touched. -/
def shortCommand (sel : Byte) (s : State) : Except Fault (Command × State) :=
  match popByte s with
  | .error f => .error f
  | .ok (b1, s1) => .ok (commandOfShort (decodeShort sel b1), s1)

/-- The four Pops of CMD_LONG (R162). -/
def popFour (s : State) : Except Fault ((Byte × Byte × Byte × Byte) × State) :=
  match popByte s with
  | .error f => .error f
  | .ok (b1, s1) =>
    match popByte s1 with
    | .error f => .error f
    | .ok (b2, s2) =>
      match popByte s2 with
      | .error f => .error f
      | .ok (b3, s3) =>
        match popByte s3 with
        | .error f => .error f
        | .ok (b4, s4) => .ok ((b1, b2, b3, b4), s4)

/-- CMD_LONG (R162): all 13 entries of the custom slot are written. -/
def longCommand (s : State) : Except Fault (Command × State) :=
  match popFour s with
  | .error f => .error f
  | .ok ((b1, b2, b3, b4), s1) =>
    .ok (commandOfLong (decodeLong b1 b2 b3 b4), s1.setCustom (decodeLong b1 b2 b3 b4).ident)

/-- DECODE (R160): the first byte popped selects the format. -/
def decodeCommand (s : State) : Except Fault (Command × State) :=
  match popByte s with
  | .error f => .error f
  | .ok (sel, s1) => if sel = 0 then longCommand s1 else shortCommand sel s1

/-- DECODE (R160). -/
def execDecode (s : State) : Host.Outcome State Fault Refusal :=
  settleWith Ret.command (decodeCommand s)

/-- CMD_SHORT (R161). -/
def execCmdShort (sel : Byte) (s : State) : Host.Outcome State Fault Refusal :=
  settleWith Ret.command (shortCommand sel s)

/-- CMD_LONG (R162). -/
def execCmdLong (s : State) : Host.Outcome State Fault Refusal :=
  settleWith Ret.command (longCommand s)

end Sys2Proof.Machine
end

