-- ==== Sys2Proof/Machine/Pulse.lean ====
section
/-! DEFINITION. PulseEncoder and SymbolTable (44_pulse_encoder.md R180 to R187): each symbol is a
function to its segments; as an operation run on its own it appends them to the waveform being
built (R180). Both protocols' symbols run in every configuration (log 12). -/

namespace Sys2Proof.Machine

/-- High for T, then low for `mult · T`: the shape of every LONG symbol (R181 to R184). -/
def pulse (c : Config) (mult : Nat) : List Segment := [⟨true, c.t⟩, ⟨false, mult * c.t⟩]

/-- EMIT_ZERO (R181). -/
def zeroSegs (c : Config) : List Segment := pulse c c.zeroLowMult

/-- EMIT_ONE (R182). -/
def oneSegs (c : Config) : List Segment := pulse c c.oneLowMult

/-- EMIT_INIT (R183). -/
def initSegs (c : Config) : List Segment := pulse c c.initLowMult

/-- EMIT_END_GAP (R184). -/
def endGapSegs (c : Config) : List Segment := pulse c c.gapMult

/-- LATE: the long gap after the second sub-pulse (R185). -/
def lateSegs (c : Config) : List Segment := pulse c 1 ++ pulse c c.shortLongLowMult

/-- EARLY: the long gap after the first sub-pulse (R185). -/
def earlySegs (c : Config) : List Segment := pulse c c.shortLongLowMult ++ pulse c 1

/-- EMIT_SBIT0 (R185). -/
def sbit0Segs (c : Config) : List Segment := if oneLongGapFirst c then lateSegs c else earlySegs c

/-- EMIT_SBIT1 (R185). -/
def sbit1Segs (c : Config) : List Segment := if oneLongGapFirst c then earlySegs c else lateSegs c

/-- PAT_LONG(v) (R186): the pattern's bits, leftmost first. -/
def patLong (c : Config) (v : PV) : List Segment :=
  (patternBits (longPattern c v)).flatMap (fun bit => if bit then oneSegs c else zeroSegs c)

/-- PAT_SHORT(v) (R187). -/
def patShort (c : Config) (v : PV) : List Segment :=
  (patternBits (shortPattern c v)).flatMap (fun bit => if bit then sbit1Segs c else sbit0Segs c)

/-- `Emit` of a symbol's segments: they are appended to the waveform being built (R180). -/
def emitSegs (segs : List Segment) (s : State) : State := s.setBuild (s.build ++ segs)

/-- EMIT_ZERO (R181). -/
def execEmitZero (s : State) : Host.Outcome State Fault Refusal := .next (emitSegs (zeroSegs s.cfg) s)

/-- EMIT_ONE (R182). -/
def execEmitOne (s : State) : Host.Outcome State Fault Refusal := .next (emitSegs (oneSegs s.cfg) s)

/-- EMIT_INIT (R183). -/
def execEmitInit (s : State) : Host.Outcome State Fault Refusal := .next (emitSegs (initSegs s.cfg) s)

/-- EMIT_END_GAP (R184). -/
def execEmitEndGap (s : State) : Host.Outcome State Fault Refusal :=
  .next (emitSegs (endGapSegs s.cfg) s)

/-- EMIT_SBIT0 (R185). -/
def execEmitSbit0 (s : State) : Host.Outcome State Fault Refusal :=
  .next (emitSegs (sbit0Segs s.cfg) s)

/-- EMIT_SBIT1 (R185). -/
def execEmitSbit1 (s : State) : Host.Outcome State Fault Refusal :=
  .next (emitSegs (sbit1Segs s.cfg) s)

end Sys2Proof.Machine
end

