-- ==== Sys2Proof/Machine/Transmit.lean ====
section
/-! DEFINITION. FrameTransmitter (45_frame_transmitter.md R200 to R206): frames, the waveform of a send,
SEND and TX_STEP. TX_STEP moves the cycle-level position `idx`, `cnt` together with the event-level
one, as R205 does at the end of a segment (log 1). -/

namespace Sys2Proof.Machine

/-- FRAME_LONG (R201). -/
def frameLong (c : Config) (ident : Identity) (cmd : Command) : List Segment :=
  initSegs c ++ (payload ident cmd).flatMap (patLong c) ++ endGapSegs c

/-- FRAME_SHORT (R202). -/
def frameShort (c : Config) (ident : Identity) (cmd : Command) : List Segment :=
  initSegs c ++ (payload ident cmd).flatMap (patShort c) ++ endGapSegs c

/-- FRAME (R203): the frame of the build's protocol. -/
def frame (c : Config) (ident : Identity) (cmd : Command) : List Segment :=
  match c.protocol with
  | .long => frameLong c ident cmd
  | .short => frameShort c ident cmd

/-- WAVE (R203): REPEAT equal frames. -/
def wave (c : Config) (ident : Identity) (cmd : Command) : List Segment :=
  (List.replicate c.repeatCount (frame c ident cmd)).flatten

/-- `WAVE(cmd)` of a command in a state: its profile is `PROFILE(cmd.sel)` (R200, 10_state.md R40). -/
def waveOf (s : State) (cmd : Command) : List Segment :=
  wave s.cfg (profileOf s.cfg s.custom cmd.sel.toNat) cmd

/-- SEND (R200): nothing for an out-of-range selector (E_SEL) or an empty waveform (REPEAT = 0). -/
def sendCommand (cmd : Command) (s : State) : State :=
  if selectorOutOfRange s.cfg cmd then s
  else
    match waveOf s cmd with
    | [] => s
    | seg :: rest => s.setTx
        { active := true, cmd := cmd, wave := seg :: rest, idx := 0,
          cnt := seg.dur * s.cfg.cyclesPerUnit }

/-- The transmitter after a segment of which the rest of the waveform is left: at the last segment the
send ends and the cycle-level position stays (R204, R205, R206). -/
def txAfter (c : Config) (tx : Tx) : List Segment → Tx
  | [] => { tx with active := false, wave := [] }
  | seg :: rest => { tx with wave := seg :: rest, idx := tx.idx + 1, cnt := seg.dur * c.cyclesPerUnit }

/-- TX_STEP (R204): the head segment goes to the trace. It is enabled only when a send is in progress;
without one it changes nothing (R205, log 6). -/
def stepTx (s : State) : Except Fault State :=
  if s.tx.active then
    match s.tx.wave with
    | [] => .error .emptyWave
    | seg :: rest => .ok ((s.setTx (txAfter s.cfg s.tx rest)).setTrace (s.trace ++ [seg]))
  else .ok s

/-- SEND (R200). -/
def execSend (cmd : Command) (s : State) : Host.Outcome State Fault Refusal :=
  .next (sendCommand cmd s)

/-- TX_STEP (R204). -/
def execTxStep (s : State) : Host.Outcome State Fault Refusal := settle (stepTx s)

end Sys2Proof.Machine
end

