-- ==== Sys2Proof/Machine/Timer.lean ====
section
/-! DEFINITION. BurstTimer and the Dispatcher's event handlers (42_burst_timer.md R140 to R143). -/

namespace Sys2Proof.Machine

/-- ON_BYTE (R140): the timer restarts even when the byte is dropped. -/
def onByteOp (b : Byte) (s : State) : Except Fault State :=
  match pushByte b s with
  | .error f => .error f
  | .ok s1 => .ok (restartTimer s1)

/-- FIRE (R143): entering the fire handler (60_exceptions.md R239). Disarm and clear the timer, decode,
send; one atomic step. -/
def fireOp (s : State) : Except Fault State :=
  match decodeCommand (disarmTimer s) with
  | .error f => .error f
  | .ok (cmd, s1) => .ok (sendCommand cmd s1)

/-- ON_TICK (R142): ignored while disarmed or during a send; the tick that brings the count to TH fires. -/
def onTickOp (s : State) : Except Fault State :=
  if !s.bt.armed || s.tx.active then .ok s
  else if s.bt.elapsed + 1 = s.cfg.idleThreshold then fireOp s
  else .ok (s.setBt { s.bt with elapsed := s.bt.elapsed + 1 })

/-- ON_BYTE (R140). -/
def execOnByte (b : Byte) (s : State) : Host.Outcome State Fault Refusal := settle (onByteOp b s)

/-- BT_RESTART (R141). -/
def execBtRestart (s : State) : Host.Outcome State Fault Refusal := .next (restartTimer s)

/-- ON_TICK (R142). -/
def execOnTick (s : State) : Host.Outcome State Fault Refusal := settle (onTickOp s)

/-- FIRE (R143). -/
def execFire (s : State) : Host.Outcome State Fault Refusal := settle (fireOp s)

end Sys2Proof.Machine
end

