-- ==== Sys2Proof/Machine/Receiver.lean ====
section
/-! DEFINITION. Synchronous serial byte receiver at the event level (40_serial_receiver.md R100 to
R102) and the byte-level abstraction (R104). -/

namespace Sys2Proof.Machine

/-- `((rx.shift · 2) + bit) mod 256` (R100). -/
def shiftIn (shift : Byte) (bit : Bool) : Byte := (shift <<< 1) ||| (if bit then 1 else 0)

/-- BYTE_DONE (R101): ON_BYTE in the same atomic step. -/
def byteDoneOp (b : Byte) (s : State) : Except Fault State := onByteOp b s

/-- SAMPLE (R100): the eighth bit completes the byte in the same step. -/
def sampleOp (bit : Bool) (s : State) : Except Fault State :=
  let shifted := shiftIn s.rx.shift bit
  if s.rx.count = 7 then byteDoneOp shifted (s.setRx { shift := shifted, count := 0 })
  else .ok (s.setRx { shift := shifted, count := s.rx.count + 1 })

/-- DESELECT (R102): a partial byte is discarded. -/
def deselectOp (s : State) : State := s.setRx { shift := 0x00, count := 0 }

/-- BYTE(b) at the byte abstraction (R104): the effect of the eight SAMPLEs of an aligned byte; refused
when the receiver is not at a byte boundary. -/
def byteOp (b : Byte) (s : State) : Host.Outcome State Fault Refusal :=
  if s.rx.count = 0 then settle (byteDoneOp b (s.setRx { shift := b, count := 0 }))
  else .refused .misalignedByte

/-- SAMPLE (R100). -/
def execSample (bit : Bool) (s : State) : Host.Outcome State Fault Refusal := settle (sampleOp bit s)

/-- BYTE_DONE (R101). -/
def execByteDone (b : Byte) (s : State) : Host.Outcome State Fault Refusal := settle (byteDoneOp b s)

/-- DESELECT (R102). -/
def execDeselect (s : State) : Host.Outcome State Fault Refusal := .next (deselectOp s)

end Sys2Proof.Machine
end

