-- ==== Sys2Proof/Machine/Dispatch.lean ====
section
/-! DEFINITION. One arm per operation, each one direct call of its meaning. -/

namespace Sys2Proof.Machine

def exec (i : Instr) (s : State) : Host.Outcome State Fault Refusal :=
  match i with
  -- 40_serial_receiver.md
  | .sample bit => Sys2Proof.Machine.execSample bit s
  | .byteDone b => Sys2Proof.Machine.execByteDone b s
  | .deselect => Sys2Proof.Machine.execDeselect s
  -- 41_receive_buffer.md
  | .push b => Sys2Proof.Machine.execPush b s
  | .pop => Sys2Proof.Machine.execPop s
  | .isEmpty => Sys2Proof.Machine.execIsEmpty s
  | .isFull => Sys2Proof.Machine.execIsFull s
  -- 42_burst_timer.md
  | .onByte b => Sys2Proof.Machine.execOnByte b s
  | .btRestart => Sys2Proof.Machine.execBtRestart s
  | .onTick => Sys2Proof.Machine.execOnTick s
  | .fire => Sys2Proof.Machine.execFire s
  -- 43_command_decoder.md
  | .decode => Sys2Proof.Machine.execDecode s
  | .cmdShort sel => Sys2Proof.Machine.execCmdShort sel s
  | .cmdLong => Sys2Proof.Machine.execCmdLong s
  -- 44_pulse_encoder.md
  | .emitZero => Sys2Proof.Machine.execEmitZero s
  | .emitOne => Sys2Proof.Machine.execEmitOne s
  | .emitInit => Sys2Proof.Machine.execEmitInit s
  | .emitEndGap => Sys2Proof.Machine.execEmitEndGap s
  | .emitSbit0 => Sys2Proof.Machine.execEmitSbit0 s
  | .emitSbit1 => Sys2Proof.Machine.execEmitSbit1 s
  -- 45_frame_transmitter.md
  | .send cmd => Sys2Proof.Machine.execSend cmd s
  | .txStep => Sys2Proof.Machine.execTxStep s
  -- 70_reset_and_hazards.md
  | .reset => Sys2Proof.Machine.execReset s

end Sys2Proof.Machine
end

