-- ==== Sys2Proof/Machine/Cycle.lean ====
section
/-! DEFINITION. The cycle level: one cycle of `clk` performs the event-level operations that it carries
(00_scope.md R5), found from the synchronizer (40_serial_receiver.md R103), the pins and the
transmitter's counter (30_encoding.md R92), in the order of 42_burst_timer.md R144; then the
sequencer counts (45_frame_transmitter.md R205) and the synchronizer shifts (R103). -/

namespace Sys2Proof.Machine

/-! ## The host's serial timing (70_reset_and_hazards.md R269) -/

/-- The serial pins among the pins. -/
def serialPins (p : Pins) : SerialPins := { sclk := p.sclk, sdi := p.sdi, ssn := p.ssn }

/-- A serial pin differs from its value in the last cycle; nothing is known before the first. -/
def pinChanged (m : Monitor) (pin : SerialPins → Bool) (p : Pins) : Bool :=
  match m.last with
  | none => false
  | some q => pin q != pin (serialPins p)

/-- The host's `SAMPLE_EDGE` of `sclk` is in this cycle. -/
def hostEdge (e : SampleEdge) (m : Monitor) (p : Pins) : Bool :=
  pinChanged m SerialPins.sclk p && (p.sclk == (match e with
    | .rising => true
    | .falling => false))

/-- This cycle keeps R269: `sclk` changes at least 3 cycles after its last change; a change of `sdi` and
of `ss_n` is at least 3 cycles away from every sampling edge, on either side. -/
def timingKept (e : SampleEdge) (m : Monitor) (p : Pins) : Bool :=
  (!pinChanged m SerialPins.sclk p || decide (3 ≤ m.sclkAge))
    && (!hostEdge e m p || (!pinChanged m SerialPins.sdi p && decide (3 ≤ m.sdiAge)
          && !pinChanged m SerialPins.ssn p && decide (3 ≤ m.ssAge)))
    && (!(pinChanged m SerialPins.sdi p || pinChanged m SerialPins.ssn p) || decide (3 ≤ m.edgeAge))

/-- How long ago something last happened, one cycle later, saturating at 3. -/
def nextAge (happened : Bool) (age : Nat) : Nat := if happened then 1 else min 3 (age + 1)

/-- The pins' history after this cycle. -/
def nextMonitor (e : SampleEdge) (m : Monitor) (p : Pins) : Monitor :=
  { last := some (serialPins p)
    sclkAge := nextAge (pinChanged m SerialPins.sclk p) m.sclkAge
    sdiAge := nextAge (pinChanged m SerialPins.sdi p) m.sdiAge
    ssAge := nextAge (pinChanged m SerialPins.ssn p) m.ssAge
    edgeAge := nextAge (hostEdge e m p) m.edgeAge }

/-! ## One cycle -/

/-- The synchronizer sees a `SAMPLE_EDGE` (R103). -/
def syncEdge (e : SampleEdge) (y : Sync) : Bool :=
  match e with
  | .rising => y.sclk2 && !y.sclk3
  | .falling => !y.sclk2 && y.sclk3

/-- The synchronizer's registers after this cycle (R103). -/
def nextSync (y : Sync) (p : Pins) : Sync :=
  { sclk1 := p.sclk, sclk2 := y.sclk1, sclk3 := y.sclk2
    sdi1 := p.sdi, sdi2 := y.sdi1
    ss1 := p.ssn, ss2 := y.ss1 }

/-- The port events of this cycle, read from the registers' values during it (R92, 00_scope.md R24). -/
def portWord (s : State) (p : Pins) : PortWord :=
  { rst := p.rst
    ssn := s.sync.ss2
    edge := syncEdge s.cfg.sampleEdge s.sync
    sdi := s.sync.sdi2
    eighth := s.rx.count == 7
    tick := p.tick
    segEnd := s.tx.active && decide (s.tx.cnt ≤ 1) }

/-- Operations one after the other, stopping at the first fault or refusal. -/
def runOps : List Instr → State → Host.Outcome State Fault Refusal
  | [], s => .next s
  | i :: rest, s =>
    match exec i s with
    | .next s1 => runOps rest s1
    | .fault f => .fault f
    | .refused r => .refused r

/-- Inside a segment the sequencer counts one cycle down (R205). -/
def countCycle (before : State) (s : State) : State :=
  if before.tx.active && decide (1 < before.tx.cnt) then
    s.setTx { s.tx with cnt := s.tx.cnt - 1 }
  else s

/-- What ends every cycle that is not a reset cycle. -/
def finishCycle (before : State) (p : Pins) :
    Host.Outcome State Fault Refusal → Host.Outcome State Fault Refusal
  | .next s => .next ((countCycle before s).setSync (nextSync before.sync p))
  | .fault f => .fault f
  | .refused r => .refused r

/-- One cycle whose serial timing is kept: reset alone when `rst` = 1 (10_state.md R32), else the
operations it carries. -/
def cycleOps (p : Pins) (s : State) : Host.Outcome State Fault Refusal :=
  if p.rst then runOps (decodePort (portWord s p)) s
  else finishCycle s p (runOps (decodePort (portWord s p)) s)

/-- One cycle of `clk` with the given pins; a run that breaks R269 is refused. -/
def cycle (p : Pins) (s : State) : Host.Outcome State Fault Refusal :=
  if timingKept s.cfg.sampleEdge s.mon p then
    cycleOps p (s.setMon (nextMonitor s.cfg.sampleEdge s.mon p))
  else .refused .serialTiming

end Sys2Proof.Machine
end

