-- ==== Sys2Proof/Machine/Stimulus.lean ====
section
/-! DEFINITION. The stimulus notation of 30_encoding.md R91, the block's assembly language: each line and
pseudo-instruction with the events it puts on the agenda. -/

namespace Sys2Proof.Machine

/-- A line of the stimulus notation (R91). -/
inductive Line where
  | byte (b : Byte)
  | burst (bs : List Byte)
  | bits (bs : List Bool)
  | deselect
  | tick (n : Nat)
  | waitTx
  | reset
  /-- `SHORT sel, g, d, s`, which R91 gives for sel ≠ 0 only (log 23). -/
  | short (sel : Byte) (group device state : PV)
  /-- `LONG r0, …, r12, g, d, s`. -/
  | long (ident : Identity) (group device state : PV)
  | complete
deriving DecidableEq, Repr

/-- The bits of a byte in the order they are sent, bit 7 first (20_memory.md R63). -/
def bitsOfByte (b : Byte) : List Bool := (List.range 8).map b.getMsbD

/-- SAMPLE events that carry the given bits. -/
def sampleEvents (bits : List Bool) : List Event := bits.map (fun bit => .op (.sample bit))

/-- `BURST b0, b1, …`: the samples of the bytes, with no tick between them. -/
def burstEvents (bytes : List Byte) : List Event := bytes.flatMap (fun b => sampleEvents (bitsOfByte b))

/-- The events of a line (R91). DESIGN CHOICE (log 23): R91 gives `SHORT` only with sel ≠ 0 and says
nothing of `SHORT 0, g, d, s`; here it expands like the others, to the burst whose first byte is 0,
which a later DECODE reads as a long form. -/
def lineEvents (c : Config) : Line → List Event
  | .byte b => sampleEvents (bitsOfByte b)
  | .burst bs => burstEvents bs
  | .bits bs => sampleEvents bs
  | .deselect => [.op .deselect]
  | .tick n => List.replicate n (.op .onTick)
  | .waitTx => [.waitTx]
  | .reset => [.op .reset]
  | .short sel g d st => burstEvents (encodeShort { sel := sel, rsv := 0, group := g, device := d, state := st })
  | .long ident g d st => burstEvents (encodeLong { ident := ident, group := g, device := d, state := st })
  | .complete => List.replicate c.idleThreshold (.op .onTick)

/-- A state with the given lines to run, in order. -/
def withLines (s : State) (lines : List Line) : State :=
  s.setAgenda (s.agenda ++ lines.flatMap (lineEvents s.cfg))

end Sys2Proof.Machine
end

