-- ==== Sys2Proof/Machine/Step.lean ====
section
/-! DEFINITION. One step of the machine: the oldest entry of the agenda, or, with nothing pending, the TX
agent (10_state.md R30, 20_memory.md R70, log 2). -/

namespace Sys2Proof.Machine

/-- One operation of the event level; an ill-formed one is refused. -/
def stepOp (i : Instr) (s : State) : Host.Outcome State Fault Refusal :=
  if i.wellFormed then exec i s else .refused .illFormedOperation

/-- WAIT_TX (30_encoding.md R91): TX_STEPs until no send is in progress, then the line is done. -/
def stepWait (rest : List Event) (s : State) : Host.Outcome State Fault Refusal :=
  if s.tx.active then exec .txStep s else .next (s.setAgenda rest)

/-- The step of a machine whose configuration is well formed. With an empty agenda only the TX agent can
act; without a send the block holds its state (60_exceptions.md R246). -/
def stepAgenda (s : State) : Host.Outcome State Fault Refusal :=
  match s.agenda with
  | [] => exec .txStep s
  | .op i :: rest => stepOp i (s.setAgenda rest)
  | .byte b :: rest => byteOp b (s.setAgenda rest)
  | .waitTx :: rest => stepWait rest s
  | .cycle p :: rest => cycle p (s.setAgenda rest)

/-- One step; an ill-formed configuration is refused (00_scope.md R20, R262). -/
def step (s : State) : Host.Outcome State Fault Refusal :=
  if s.cfg.wellFormed then stepAgenda s else .refused .illFormedConfig

/-- `s` with the burst word `w` of `nbits` bits as the oldest bytes of the ReceiveBuffer, where DECODE
fetches a command (43_command_decoder.md R160), and DECODE as the next event (log 9). -/
def State.withFetchWord (s : State) (nbits w : Nat) : State :=
  (s.setRb (Ring.ofBytes s.cfg.capacity (bytesOfWord nbits w))).setAgenda (.op .decode :: s.agenda)

end Sys2Proof.Machine
end

