-- ==== Sys2Proof/Safety.lean ====
section
/-! DEFINITION. The terms in which claims about the block are stated: the live bytes of the buffer, the
invariants of a run, what a reader of the output line recovers from it, and runs of buffer
operations, of cycles and of EMIT operations. -/

namespace Sys2Proof.Machine

/-! ## The buffer as a queue -/

/-- The live bytes of the buffer, oldest first (43_command_decoder.md R166). -/
def liveBytes (s : State) : List Byte :=
  (List.range s.rb.size).map (fun k => s.rb.data.read ((s.rb.rd + k) % s.cfg.capacity))

/-- `qz(i)`: the i-th live byte, or the sentinel 0x00 when there is none (R166). -/
def byteAt (s : State) (i : Nat) : Byte := (liveBytes s).getD i 0

/-- What a run of buffer operations shows: the bytes that Pops of a non-empty buffer returned, the bytes
of the Pushes that found the buffer not full, and the state it ends in. -/
structure BufferRun where
  popped : List Byte
  taken  : List Byte
  last   : State

/-- A run of PUSH (`some b`) and POP (`none`) operations; `none` if one of them stops. -/
def bufferRun : List (Option Byte) → State → Option BufferRun
  | [], s => some { popped := [], taken := [], last := s }
  | some b :: ops, s =>
    match exec (.push b) s with
    | .next t =>
      (bufferRun ops t).map (fun r => if ringFull s then r else { r with taken := b :: r.taken })
    | _ => none
  | none :: ops, s =>
    match exec .pop s with
    | .next t =>
      (bufferRun ops t).map (fun r =>
        match ringEmpty s, t.ret with
        | false, .byte b => { r with popped := b :: r.popped }
        | _, _ => r)
    | _ => none

/-! ## Invariants of a run -/

/-- The ReceiveBuffer's invariant (10_state.md R36): the storage in canonical form and inside RBS, the
size and the indices in range, and `rb.wr = (rb.rd + rb.size) mod C`. -/
abbrev RingInv (s : State) : Prop :=
  s.rb.data.wf = true ∧ (∀ cell ∈ s.rb.data, cell.1 < s.cfg.capacity)
    ∧ s.rb.size ≤ s.cfg.capacity ∧ s.rb.rd < s.cfg.capacity ∧ s.rb.wr < s.cfg.capacity
    ∧ s.rb.wr = (s.rb.rd + s.rb.size) % s.cfg.capacity

/-- The BurstTimer's invariant (10_state.md R38): the count never holds TH, and counts only while
armed. -/
abbrev TimerInv (s : State) : Prop :=
  s.bt.elapsed < s.cfg.idleThreshold ∧ (s.bt.armed = false → s.bt.elapsed = 0)

/-- What every operation keeps, whoever runs it. -/
abbrev BlockInv (s : State) : Prop := s.cfg.wellFormed = true ∧ RingInv s ∧ TimerInv s

/-- The duration of the segment at the head of a waveform. -/
def headDur (segs : List Segment) : Nat := (segs.headD default).dur

/-- The FrameTransmitter's invariant (10_state.md R42, R43): without a send nothing is left to emit;
during one, what is left is the command's waveform from the current segment on, and the counter is
between 1 and the segment's length in cycles. -/
abbrev TxInv (s : State) : Prop :=
  (s.tx.active = false → s.tx.wave = [])
    ∧ (s.tx.active = true →
        selectorOutOfRange s.cfg s.tx.cmd = false
          ∧ s.tx.wave ≠ [] ∧ s.tx.wave = (waveOf s s.tx.cmd).drop s.tx.idx
          ∧ 1 ≤ s.tx.cnt ∧ s.tx.cnt ≤ headDur s.tx.wave * s.cfg.cyclesPerUnit)

/-- The operations the agents produce at the event level (10_state.md R30): the port events. -/
def agentOp : Instr → Bool
  | .sample _ | .deselect | .onTick | .txStep | .reset => true
  | .byteDone _ | .push _ | .pop | .isEmpty | .isFull | .onByte _ | .btRestart | .fire | .decode
  | .cmdShort _ | .cmdLong | .emitZero | .emitOne | .emitInit | .emitEndGap | .emitSbit0
  | .emitSbit1 | .send _ => false

/-- An agenda entry that an agent of the block produces: every one but an internal operation run on its
own (log 10). -/
def agentEvent : Event → Bool
  | .op i => agentOp i
  | .byte _ => true
  | .waitTx => true
  | .cycle _ => true

/-- The invariant of a run whose events all come from the agents. -/
abbrev RunInv (s : State) : Prop :=
  BlockInv s ∧ TxInv s ∧ s.agenda.all agentEvent = true

/-- The next event resets the block. -/
def resetsNext (s : State) : Bool :=
  match s.agenda with
  | .op .reset :: _ => true
  | .cycle p :: _ => p.rst
  | _ => false

/-! ## Writers (10_state.md R50): each operation with the operations it calls -/

/-- PUSH and its callers. -/
def runsPush : Instr → Bool
  | .push _ | .onByte _ | .byteDone _ | .sample _ => true
  | .deselect | .pop | .isEmpty | .isFull | .btRestart | .onTick | .fire | .decode | .cmdShort _
  | .cmdLong | .emitZero | .emitOne | .emitInit | .emitEndGap | .emitSbit0 | .emitSbit1 | .send _
  | .txStep | .reset => false

/-- CMD_LONG and its callers. -/
def runsCmdLong : Instr → Bool
  | .cmdLong | .decode | .fire | .onTick => true
  | .sample _ | .byteDone _ | .deselect | .push _ | .pop | .isEmpty | .isFull | .onByte _
  | .btRestart | .cmdShort _ | .emitZero | .emitOne | .emitInit | .emitEndGap | .emitSbit0
  | .emitSbit1 | .send _ | .txStep | .reset => false

/-- POP and its callers. -/
def runsPop : Instr → Bool
  | .pop | .cmdShort _ => true
  | i => runsCmdLong i

/-- BT_RESTART, ON_TICK, FIRE and their callers. -/
def runsTimer : Instr → Bool
  | .btRestart | .onByte _ | .byteDone _ | .sample _ | .onTick | .fire => true
  | .deselect | .push _ | .pop | .isEmpty | .isFull | .decode | .cmdShort _ | .cmdLong | .emitZero
  | .emitOne | .emitInit | .emitEndGap | .emitSbit0 | .emitSbit1 | .send _ | .txStep
  | .reset => false

/-- SEND and its callers, and TX_STEP. -/
def runsTransmitter : Instr → Bool
  | .send _ | .fire | .onTick | .txStep => true
  | .sample _ | .byteDone _ | .deselect | .push _ | .pop | .isEmpty | .isFull | .onByte _
  | .btRestart | .decode | .cmdShort _ | .cmdLong | .emitZero | .emitOne | .emitInit | .emitEndGap
  | .emitSbit0 | .emitSbit1 | .reset => false

/-- SAMPLE and DESELECT. -/
def runsReceiver : Instr → Bool
  | .sample _ | .deselect => true
  | .byteDone _ | .push _ | .pop | .isEmpty | .isFull | .onByte _ | .btRestart | .onTick | .fire
  | .decode | .cmdShort _ | .cmdLong | .emitZero | .emitOne | .emitInit | .emitEndGap | .emitSbit0
  | .emitSbit1 | .send _ | .txStep | .reset => false

/-! ## The synchronizer -/

/-- The synchronizer shows a `SAMPLE_EDGE` of `sclk` (40_serial_receiver.md R103). -/
abbrev syncSeesEdge (s : State) : Prop :=
  if s.cfg.sampleEdge = .rising then s.sync.sclk2 = true ∧ s.sync.sclk3 = false
  else s.sync.sclk2 = false ∧ s.sync.sclk3 = true

/-! ## The output line -/

/-- The levels of the line in the cycles that the send in progress still takes, this cycle first
(45_frame_transmitter.md R205). -/
def lineAhead (s : State) : List Bool :=
  match s.tx.active, s.tx.wave with
  | true, seg :: rest =>
    List.replicate s.tx.cnt seg.level
      ++ rest.flatMap (fun g => List.replicate (g.dur * s.cfg.cyclesPerUnit) g.level)
  | _, _ => []

/-- Cycles of `clk`, one after the other. -/
def runCycles : List Pins → State → Host.Outcome State Fault Refusal
  | [], s => .next s
  | p :: ps, s =>
    match cycle p s with
    | .next t => runCycles ps t
    | .fault f => .fault f
    | .refused r => .refused r

/-- Some pin of a run of cycles has another value in cycle `k + 1` than in cycle `k`. -/
abbrev pinMoves {α : Type} (pin : Pins → α) (ps : List Pins) (k : Nat) : Prop :=
  (ps[k]?).map pin ≠ (ps[k + 1]?).map pin ∧ k + 1 < ps.length

/-- The host's `SAMPLE_EDGE` of `sclk` is in cycle `k + 1` of a run. -/
abbrev hostSamples (e : SampleEdge) (ps : List Pins) (k : Nat) : Prop :=
  pinMoves Pins.sclk ps k ∧ (ps[k + 1]?).map Pins.sclk = some (decide (e = .rising))

/-- The host keeps the serial timing of 70_reset_and_hazards.md R269 in a run of cycles, counted as log
11 says: two changes of `sclk` are at least 3 cycles apart, and a change of `sdi` or of `ss_n` is at
least 3 cycles from every sampling edge, before it or after it. -/
abbrev keepsSerialTiming (e : SampleEdge) (ps : List Pins) : Prop :=
  (∀ i j, i < j → pinMoves Pins.sclk ps i → pinMoves Pins.sclk ps j → i + 3 ≤ j)
  ∧ (∀ i j, hostSamples e ps i → pinMoves Pins.sdi ps j ∨ pinMoves Pins.ssn ps j →
      i + 3 ≤ j ∨ j + 3 ≤ i)

/-- No cycle of a run of cycles completes a byte (40_serial_receiver.md R101, R103). -/
abbrev noByteIn (ps : List Pins) (s : State) : Prop :=
  ∀ k u p, runCycles (ps.take k) s = .next u → ps[k]? = some p → byteEvent (portWord u p) = false

/-- The event-level operations that a run of cycles carries, cycle by cycle in the order of
42_burst_timer.md R144 (00_scope.md R5). -/
def carriedOps : List Pins → State → List Instr
  | [], _ => []
  | p :: ps, s =>
    decodePort (portWord s p) ++ (match cycle p s with
      | .next t => carriedOps ps t
      | _ => [])

/-- What the event level of description sees of a state: everything but the synchronizer, the
transmitter's cycle counter and the pins' history (10_state.md R34, R43). -/
def eventView (s : State) : State :=
  ((s.setSync Sync.reset).setTx { s.tx with cnt := 0 }).setMon Monitor.start

/-- The EMIT operations of a frame in the order the frame emits them (R201, R202). -/
def frameOps (c : Config) (ident : Identity) (cmd : Command) : List Instr :=
  let bitsOf (v : PV) : List Bool :=
    match c.protocol with
    | .long => patternBits (longPattern c v)
    | .short => patternBits (shortPattern c v)
  [.emitInit] ++ (payload ident cmd).flatMap (fun v => (bitsOf v).map (decodeSymbol c.protocol))
    ++ [.emitEndGap]

/-! ## Reading a waveform back (44_pulse_encoder.md R189) -/

/-- The pattern bit of a LONG symbol: its low hold is T times ZERO_LOW_MULT or ONE_LOW_MULT. -/
def readLongBit (c : Config) (low : Segment) : Option Bool :=
  if low = ⟨false, c.zeroLowMult * c.t⟩ then some false
  else if low = ⟨false, c.oneLowMult * c.t⟩ then some true
  else none

/-- The pattern bit of a SHORT symbol: the position of the long gap. -/
def readShortBit (c : Config) (gap1 gap2 : Segment) : Option Bool :=
  if gap1 = ⟨false, c.shortLongLowMult * c.t⟩ ∧ gap2 = ⟨false, c.t⟩ then some (oneLongGapFirst c)
  else if gap1 = ⟨false, c.t⟩ ∧ gap2 = ⟨false, c.shortLongLowMult * c.t⟩ then
    some (!oneLongGapFirst c)
  else none

/-- The PayloadValue whose pattern has the given bits. -/
def valueOfBits {w : Nat} (pattern : PV → BitVec w) (bits : List Bool) : Option PV :=
  ([0, 1, 2, 3] : List PV).find? (fun v => patternBits (pattern v) == bits)

/-- The PayloadValue that eight segments of the line carry, under the build's protocol. -/
def readValue (c : Config) (segs : List Segment) : Option PV :=
  match c.protocol, segs with
  | .long, [_, l0, _, l1, _, l2, _, l3] =>
    match readLongBit c l0, readLongBit c l1, readLongBit c l2, readLongBit c l3 with
    | some b0, some b1, some b2, some b3 => valueOfBits (longPattern c) [b0, b1, b2, b3]
    | _, _, _, _ => none
  | .short, [_, g0, _, g1, _, g2, _, g3] =>
    match readShortBit c g0 g1, readShortBit c g2 g3 with
    | some b0, some b1 => valueOfBits (shortPattern c) [b0, b1]
    | _, _ => none
  | _, _ => none

end Sys2Proof.Machine
end

