-- ==== Sys2Proof/Certificates/Slice0/Obligations.lean ====
section
/-! DEFINITION. The statements for the provers, family by family of spec/opcode_table.json. -/

open Sys2Proof Sys2Proof.Machine

/-! ## Stepping and decoding -/

/-- When the next event is a well-formed operation, a step is that operation, run with the rest of the
agenda pending. -/
def Obligations.StepRunsNextOperation : Prop :=
  ∀ (s : State) (i : Instr) (rest : List Event),
    s.cfg.wellFormed = true → s.agenda = .op i :: rest → i.wellFormed = true →
    step s = exec i (s.setAgenda rest)

/-- What a step does with every other agenda: BYTE at the byte abstraction, WAIT_TX, a cycle, nothing
pending (then the TX agent acts), and what it refuses (00_scope.md R20; log 2, log 13). -/
def Obligations.StepRunsEveryKindOfEvent : Prop :=
  ∀ (s : State) (rest : List Event),
    (s.cfg.wellFormed = false → step s = .refused .illFormedConfig)
    ∧ (s.cfg.wellFormed = true →
        (s.agenda = [] → step s = exec .txStep s)
        ∧ (∀ b, s.agenda = .byte b :: rest → s.rx.count ≠ 0 → step s = .refused .misalignedByte)
        ∧ (∀ i, s.agenda = .op i :: rest → i.wellFormed = false →
            step s = .refused .illFormedOperation)
        ∧ (s.agenda = .waitTx :: rest →
            step s = if s.tx.active then exec .txStep s else .next (s.setAgenda rest))
        ∧ (∀ p, s.agenda = .cycle p :: rest → step s = cycle p (s.setAgenda rest)))

/-- DECODE as the next event fetches the command whose bytes stand at the head of the buffer: the step
pops the first byte and is the operation that the buffer's bytes decode to, run on its remaining
bytes (R160, R81). -/
def Obligations.StepRunsTheFetchedCommand : Prop :=
  ∀ (s : State) (rest : List Event),
    s.cfg.wellFormed = true → RingInv s → s.agenda = .op .decode :: rest →
    ∃ t, liveBytes t = (decodeBurst (liveBytes s)).2
      ∧ t = (s.setAgenda rest).setRb
          { s.rb with rd := t.rb.rd, size := s.rb.size - 1 }
      ∧ step s = exec (decodeBurst (liveBytes s)).1 t

/-- Words written out from the spec's encodings decode to what they stand for (95_test_vectors.md S1,
S2 and 30_encoding.md R82, R83, R88, R92). -/
def Obligations.WrittenWordsDecode : Prop :=
  decodeTableWord 16 0x0127 = some (.cmdShort 0x01)
  ∧ decodeTableWord 40 0x009369C667 = some .cmdLong
  ∧ decodeShort 0x01 0x27 = { sel := 0x01, rsv := 0, group := 2, device := 1, state := 3 }
  ∧ decodeLong 0x93 0x69 0xC6 0x67
      = { ident := #v[2, 1, 0, 3, 1, 2, 2, 1, 3, 0, 1, 2, 1], group := 2, device := 1, state := 3 }
  ∧ decode (.port { PortWord.quiet with edge := true, sdi := true, eighth := true, tick := true })
      = [.sample true]
  ∧ decode (.port { PortWord.quiet with edge := true, tick := true, segEnd := true })
      = [.sample false, .onTick, .txStep]
  ∧ decode (.port { PortWord.quiet with ssn := true, edge := true }) = [.deselect]
  ∧ decode (.port { PortWord.quiet with rst := true, tick := true }) = [.reset]
  ∧ decode (.patternBit .long true) = [.emitOne] ∧ decode (.patternBit .short false) = [.emitSbit0]
  ∧ decode .frameStart = [.emitInit] ∧ decode .frameEnd = [.emitEndGap]

/-- The short form's fields, bit by bit of the 16-bit burst word (R82). -/
def Obligations.ShortWordFields : Prop :=
  ∀ W : BitVec 16, W.extractLsb' 8 8 ≠ 0 →
    decodeTableWord 16 W.toNat = some (.cmdShort (W.extractLsb' 8 8))
    ∧ ∃ b0 b1 : Byte, bytesOfWord 16 W.toNat = [b0, b1]
      ∧ decodeShort b0 b1 =
          { sel := W.extractLsb' 8 8, rsv := W.extractLsb' 6 2, group := W.extractLsb' 4 2,
            device := W.extractLsb' 2 2, state := W.extractLsb' 0 2 }

/-- The long form's fields, bit by bit of the 40-bit burst word (R83). -/
def Obligations.LongWordFields : Prop :=
  ∀ W : BitVec 40, W.extractLsb' 32 8 = 0 →
    decodeTableWord 40 W.toNat = some .cmdLong
    ∧ ∃ b1 b2 b3 b4 : Byte, bytesOfWord 40 W.toNat = [0, b1, b2, b3, b4]
      ∧ (∀ k : Fin 13, (decodeLong b1 b2 b3 b4).ident[k] = W.extractLsb' (30 - 2 * k.val) 2)
      ∧ (decodeLong b1 b2 b3 b4).group = W.extractLsb' 4 2
      ∧ (decodeLong b1 b2 b3 b4).device = W.extractLsb' 2 2
      ∧ (decodeLong b1 b2 b3 b4).state = W.extractLsb' 0 2

/-- Decoding the encoding of a well-formed operation gives it back, whatever bytes a wire command has
still to pop; decoding the bytes of a well-formed wire form gives every field back, and encoding the
decoded fields gives the bytes back, so that no bit is dropped. -/
def Obligations.EncodeDecodeRoundTrip : Prop :=
  (∀ (i : Instr) (operands : List Byte) (e : Encoding),
      i.wellFormed = true → encode i operands = some e → decode e = [i])
  ∧ (∀ f : ShortForm, f.wellFormed = true →
      ∃ b1, encodeShort f = [f.sel, b1] ∧ decodeBurst (encodeShort f) = (.cmdShort f.sel, [b1])
        ∧ decodeShort f.sel b1 = f)
  ∧ (∀ f : LongForm, ∃ b1 b2 b3 b4, encodeLong f = [0, b1, b2, b3, b4]
      ∧ decodeBurst (encodeLong f) = (.cmdLong, [b1, b2, b3, b4]) ∧ decodeLong b1 b2 b3 b4 = f)
  ∧ (∀ b0 b1 : Byte, encodeShort (decodeShort b0 b1) = [b0, b1])
  ∧ (∀ b1 b2 b3 b4 : Byte, encodeLong (decodeLong b1 b2 b3 b4) = [0, b1, b2, b3, b4])

/-- The lines of the stimulus notation that are expanded (R91): BURST is its BYTEs, BYTE its eight
SAMPLEs, SHORT with sel ≠ 0 and LONG the BURSTs of the bytes that R91 computes, which are the wire forms'
bytes, and COMPLETE is TICK TH. -/
def Obligations.PseudoInstructionBytes : Prop :=
  ∀ (c : Config) (g d st : PV),
    let lastByte (high : Nat) : Byte :=
      BitVec.ofNat 8 (high * 64 + g.toNat * 16 + d.toNat * 4 + st.toNat)
    (∀ sel : Byte, sel ≠ 0 →
      lineEvents c (.short sel g d st) = lineEvents c (.burst [sel, lastByte 0])
      ∧ encodeShort { sel := sel, rsv := 0, group := g, device := d, state := st }
          = [sel, lastByte 0])
    ∧ (∀ r : Identity,
        let bytes : List Byte :=
          [0,
           BitVec.ofNat 8 (r[0].toNat * 64 + r[1].toNat * 16 + r[2].toNat * 4 + r[3].toNat),
           BitVec.ofNat 8 (r[4].toNat * 64 + r[5].toNat * 16 + r[6].toNat * 4 + r[7].toNat),
           BitVec.ofNat 8 (r[8].toNat * 64 + r[9].toNat * 16 + r[10].toNat * 4 + r[11].toNat),
           lastByte r[12].toNat]
        lineEvents c (.long r g d st) = lineEvents c (.burst bytes)
        ∧ encodeLong { ident := r, group := g, device := d, state := st } = bytes)
    ∧ (∀ bytes, lineEvents c (.burst bytes) = bytes.flatMap (fun b => lineEvents c (.byte b)))
    ∧ (∀ b : Byte, lineEvents c (.byte b)
        = [7, 6, 5, 4, 3, 2, 1, 0].map (fun k => .op (.sample (b.getLsbD k))))
    ∧ lineEvents c .complete = lineEvents c (.tick c.idleThreshold)

/-! ## Serial receiver -/

/-- SAMPLE (R100): the shift and the count, the eighth bit's BYTE_DONE, the first bit of a byte ending
in bit 7, and that a SAMPLE is never refused. -/
def Obligations.SampleShiftsOneBit : Prop :=
  ∀ (s : State) (bit : Bool),
    let v : Byte := BitVec.ofNat 8 ((s.rx.shift.toNat * 2 + bit.toNat) % 256)
    (s.rx.count ≠ 7 → exec (.sample bit) s = .next (s.setRx { shift := v, count := s.rx.count + 1 }))
    ∧ (s.rx.count = 7 →
        exec (.sample bit) s = exec (.byteDone v) (s.setRx { shift := v, count := 0 }))
    ∧ (∀ b : Byte, s.rx.count = 0 →
        runOps ((bitsOfByte b).map Instr.sample) s
          = exec (.byteDone b) (s.setRx { shift := b, count := 0 }))
    ∧ (RingInv s → ∃ t, exec (.sample bit) s = .next t)

/-- The byte abstraction (R104): at a byte boundary BYTE(b) is the eight SAMPLEs of b, most significant
bit first; anywhere else it is refused. -/
def Obligations.ByteAbstractionIsEightSamples : Prop :=
  ∀ (s : State) (b : Byte) (rest : List Event),
    s.cfg.wellFormed = true → s.agenda = .byte b :: rest →
    (s.rx.count = 0 → step s = runOps ((bitsOfByte b).map Instr.sample) (s.setAgenda rest))
    ∧ (s.rx.count ≠ 0 → step s = .refused .misalignedByte)

/-- DESELECT (R102): the receiver is cleared; a partial byte is lost and produces no BYTE_DONE. -/
def Obligations.DeselectDiscardsPartialByte : Prop :=
  ∀ (s : State),
    exec .deselect s = .next (s.setRx { shift := 0x00, count := 0 })
    ∧ ∀ bits : List Bool, s.rx.count.toNat + bits.length < 8 →
        runOps (bits.map Instr.sample ++ [.deselect]) s
          = .next (s.setRx { shift := 0x00, count := 0 })

/-! ## ReceiveBuffer -/

/-- PUSH (R120): a full buffer drops the byte and nothing changes; otherwise the byte goes to slot
`rb.wr`, every other slot reads as before, and `rb.wr` and `rb.size` advance. -/
def Obligations.PushAppendsOrDrops : Prop :=
  ∀ (s : State) (b : Byte),
    (s.rb.size = s.cfg.capacity → exec (.push b) s = .next s)
    ∧ (s.rb.size ≠ s.cfg.capacity → s.rb.wr < s.cfg.capacity → s.rb.data.wf = true →
        ∃ t, exec (.push b) s = .next t
          ∧ t.rb.data.read s.rb.wr = b ∧ (∀ a, a ≠ s.rb.wr → t.rb.data.read a = s.rb.data.read a)
          ∧ t.rb.wr = (s.rb.wr + 1) % s.cfg.capacity ∧ t.rb.size = s.rb.size + 1
          ∧ t.rb.rd = s.rb.rd ∧ t = s.setRb t.rb)

/-- POP (R121): an empty buffer answers the sentinel 0x00 and changes no state; otherwise the oldest
byte is answered, `rb.rd` and `rb.size` move, and no slot is cleared. -/
def Obligations.PopTakesOldestOrSentinel : Prop :=
  ∀ (s : State),
    (s.rb.size = 0 → exec .pop s = .next (s.setRet (.byte 0x00)))
    ∧ (s.rb.size ≠ 0 → s.rb.rd < s.cfg.capacity →
        exec .pop s = .next ((s.setRb { s.rb with
            rd := (s.rb.rd + 1) % s.cfg.capacity, size := s.rb.size - 1 }).setRet
              (.byte (s.rb.data.read s.rb.rd))))
    ∧ (RingInv s → s.rb.size ≠ 0 → ∃ t b rest, exec .pop s = .next t ∧ t.ret = .byte b
        ∧ liveBytes s = b :: rest ∧ liveBytes t = rest)

/-- IS_EMPTY and IS_FULL (R122): the two queries answer `rb.size = 0` and `rb.size = C`. -/
def Obligations.BufferQueries : Prop :=
  ∀ (s : State),
    exec .isEmpty s = .next (s.setRet (.bit (decide (s.rb.size = 0))))
    ∧ exec .isFull s = .next (s.setRet (.bit (decide (s.rb.size = s.cfg.capacity))))
    ∧ ringEmpty (State.resetOf s.cfg) = true
    ∧ (s.cfg.wellFormed = true → ringFull (State.resetOf s.cfg) = false)

/-- The FIFO law (R123): from any buffer, any sequence of PUSH and POP runs to its end, and the bytes
popped followed by the bytes left are the bytes held at the start followed by the bytes taken. -/
def Obligations.BufferIsFifo : Prop :=
  ∀ (ops : List (Option Byte)) (s : State), RingInv s →
    ∃ r, bufferRun ops s = some r ∧ RingInv r.last
      ∧ r.popped ++ liveBytes r.last = liveBytes s ++ r.taken

/-- Capacity (R265): bytes that arrive between two decodes are kept in order up to the C-th; every byte
past it is lost, and the timer restarts all the same. -/
def Obligations.BytesPastCapacityAreLost : Prop :=
  ∀ (bytes : List Byte) (s : State), RingInv s → bytes ≠ [] →
    ∃ t, runOps (bytes.map Instr.onByte) s = .next t
      ∧ liveBytes t = (liveBytes s ++ bytes).take s.cfg.capacity
      ∧ t.bt = { armed := true, elapsed := 0 }

/-! ## BurstTimer and event handlers -/

/-- ON_BYTE (R140) and BYTE_DONE (R101), which is ON_BYTE of the completed byte: push, then restart the
timer, in every mode and also when the byte is dropped. -/
def Obligations.OnBytePushesAndRestarts : Prop :=
  ∀ (s : State) (b : Byte), RingInv s →
    ∃ t, exec (.byteDone b) s = .next t ∧ exec (.onByte b) s = .next t
      ∧ liveBytes t = (if ringFull s then liveBytes s else liveBytes s ++ [b])
      ∧ t = (s.setRb t.rb).setBt { armed := true, elapsed := 0 }
      ∧ (ringFull s = true → t.rb = s.rb)

/-- BT_RESTART (R141): arm the timer and clear its count; two restarts in a row are one; during a send
no tick counts, and a byte that arrives is kept in the buffer and leaves the send alone. -/
def Obligations.RestartArmsTheTimer : Prop :=
  ∀ (s : State),
    exec .btRestart s = .next (s.setBt { armed := true, elapsed := 0 })
    ∧ runOps [.btRestart, .btRestart] s = exec .btRestart s
    ∧ (s.tx.active = true → runOps [.btRestart, .onTick] s = exec .btRestart s)
    ∧ (∀ b, s.tx.active = true → RingInv s → ringFull s = false →
        ∃ t, runOps [.onByte b, .onTick] s = .next t ∧ liveBytes t = liveBytes s ++ [b]
          ∧ t.bt = { armed := true, elapsed := 0 } ∧ t.tx = s.tx ∧ t.custom = s.custom)

/-- ON_TICK (R142): ignored while disarmed or during a send; counts; fires at the TH-th tick. -/
def Obligations.OnTickCountsOrFires : Prop :=
  ∀ (s : State),
    (s.bt.armed = false ∨ s.tx.active = true → exec .onTick s = .next s)
    ∧ (s.bt.armed = true → s.tx.active = false → s.bt.elapsed + 1 ≠ s.cfg.idleThreshold →
        exec .onTick s = .next (s.setBt { armed := true, elapsed := s.bt.elapsed + 1 }))
    ∧ (s.bt.armed = true → s.tx.active = false → s.bt.elapsed + 1 = s.cfg.idleThreshold →
        exec .onTick s = exec .fire s)

/-- FIRE (R143): the timer is disarmed and cleared, then DECODE, then SEND of its command, in one step;
afterwards the mode is Transmitting if the send started a waveform and Idle otherwise. -/
def Obligations.FireDecodesAndSends : Prop :=
  ∀ (s : State), RingInv s →
    ∃ d cmd t, exec .decode (s.setBt { armed := false, elapsed := 0 }) = .next d
      ∧ d.ret = .command cmd
      ∧ exec (.send cmd) (d.setRet s.ret) = .next t ∧ exec .fire s = .next t
      ∧ t.bt = { armed := false, elapsed := 0 }
      ∧ (s.tx.active = false → modeOf t = .transmitting ∨ t.tx = s.tx ∧ modeOf t = .idle)

/-- The timer laws (R146): fewer than TH ticks never fire; TH ticks fire exactly once, and further ticks
do nothing; a restart discards the count. -/
def Obligations.TimerLaws : Prop :=
  ∀ (s : State), s.tx.active = false → s.cfg.wellFormed = true → RingInv s →
    (∀ n, n < s.cfg.idleThreshold →
      runOps (.btRestart :: List.replicate n .onTick) s
        = .next (s.setBt { armed := true, elapsed := n }))
    ∧ (∀ m, ∃ t, exec .fire s = .next t
      ∧ runOps (.btRestart :: List.replicate (s.cfg.idleThreshold + m) .onTick) s = .next t)
    ∧ (∀ n m, n < s.cfg.idleThreshold → m < s.cfg.idleThreshold →
      runOps (.btRestart :: List.replicate n .onTick ++ .btRestart :: List.replicate m .onTick) s
        = .next (s.setBt { armed := true, elapsed := m }))

/-- The state machine (R147): what a byte, a tick and the last TX_STEP do to the mode. -/
def Obligations.ModeTransitions : Prop :=
  ∀ (s t : State),
    (∀ b, exec (.onByte b) s = .next t →
      t.bt = { armed := true, elapsed := 0 }
        ∧ modeOf t = (if s.tx.active then Mode.transmitting else Mode.accumulating))
    ∧ (exec .onTick s = .next t →
        (modeOf s ≠ .accumulating → t = s)
        ∧ (modeOf s = .accumulating →
            if s.bt.elapsed + 1 = s.cfg.idleThreshold then
              modeOf t = .transmitting ∨ modeOf t = .idle
            else modeOf t = .accumulating ∧ t.bt.elapsed = s.bt.elapsed + 1))
    ∧ (exec .txStep s = .next t → modeOf s = .transmitting →
        if t.tx.wave = [] then modeOf t = (if s.bt.armed then Mode.accumulating else Mode.idle)
        else modeOf t = .transmitting)

/-- When the fire comes (R145). The last byte is handled in a cycle that leaves no send in progress, and
`ps` are the cycles after it, none of which completes a byte or resets the block; the serial pins are
otherwise free. The timer, which only a fire disarms then, has fired exactly when TH ticks have come.
So with ticks every P cycles, at any phase, it has not fired after (TH-1)·P cycles without a byte, and
has fired after TH·P of them. A gap between two bytes is counted in the cycles between them (log 24). -/
def Obligations.FireComesWithinItsBand : Prop :=
  ∀ (p : Pins) (ps : List Pins) (s u t : State),
    RunInv s → p.rst = false → byteEvent (portWord s p) = true → cycle p s = .next u →
    u.tx.active = false → (∀ q ∈ ps, q.rst = false) → noByteIn ps u → runCycles ps u = .next t →
    t.bt.armed = decide (ps.countP (fun q => q.tick) < s.cfg.idleThreshold)
    ∧ ∀ period phase : Nat, 1 ≤ period →
        (∀ (k : Nat) (h : k < ps.length), ps[k].tick = decide ((k + phase) % period = 0)) →
        (ps.length ≤ (s.cfg.idleThreshold - 1) * period → t.bt.armed = true)
        ∧ (s.cfg.idleThreshold * period ≤ ps.length → t.bt.armed = false)

/-! ## CommandDecoder -/

/-- CMD_SHORT (R161): the command of the given selector and the next byte, whose top two bits are not
read; one byte is consumed and the custom slot is not touched. -/
def Obligations.ShortCommandReadsOneByte : Prop :=
  ∀ (s : State) (sel : Byte), RingInv s →
    ∃ t, exec (.cmdShort sel) s = .next t
      ∧ t.ret = .command {
          sel := sel, group := (byteAt s 0).extractLsb' 4 2
          device := (byteAt s 0).extractLsb' 2 2, state := (byteAt s 0).extractLsb' 0 2 }
      ∧ liveBytes t = (liveBytes s).drop 1 ∧ t.custom = s.custom
      ∧ t = (s.setRb { s.rb with rd := t.rb.rd, size := t.rb.size }).setRet t.ret

/-- CMD_LONG (R162): four bytes are consumed, all 13 entries of the custom slot are written, and the
command has selector 0 and the last byte's fields; a missing byte reads as 0x00. -/
def Obligations.LongCommandWritesCustomSlot : Prop :=
  ∀ (s : State), RingInv s →
    ∃ t, exec .cmdLong s = .next t
      ∧ t.ret = .command {
          sel := 0, group := (byteAt s 3).extractLsb' 4 2
          device := (byteAt s 3).extractLsb' 2 2, state := (byteAt s 3).extractLsb' 0 2 }
      ∧ (∀ k : Fin 12, t.custom[k] = (byteAt s (k.val / 4)).extractLsb' (6 - 2 * (k.val % 4)) 2)
      ∧ t.custom[12] = (byteAt s 3).extractLsb' 6 2
      ∧ liveBytes t = (liveBytes s).drop 4
      ∧ t = ((s.setRb { s.rb with rd := t.rb.rd, size := t.rb.size }).setCustom t.custom).setRet t.ret

/-- DECODE as a function of the buffer (R166): the command it returns, the custom slot it leaves and
the bytes it leaves, whatever the buffer holds (under-run R163, surplus R164). -/
def Obligations.DecodeIsAFunctionOfTheBuffer : Prop :=
  ∀ (s : State), RingInv s →
    ∃ t, exec .decode s = .next t
      ∧ (byteAt s 0 ≠ 0 →
          t.ret = .command {
            sel := byteAt s 0, group := (byteAt s 1).extractLsb' 4 2
            device := (byteAt s 1).extractLsb' 2 2, state := (byteAt s 1).extractLsb' 0 2 }
          ∧ liveBytes t = (liveBytes s).drop 2 ∧ t.custom = s.custom)
      ∧ (byteAt s 0 = 0 →
          t.ret = .command {
            sel := 0, group := (byteAt s 4).extractLsb' 4 2
            device := (byteAt s 4).extractLsb' 2 2, state := (byteAt s 4).extractLsb' 0 2 }
          ∧ (∀ k : Fin 12,
              t.custom[k] = (byteAt s (k.val / 4 + 1)).extractLsb' (6 - 2 * (k.val % 4)) 2)
          ∧ t.custom[12] = (byteAt s 4).extractLsb' 6 2
          ∧ liveBytes t = (liveBytes s).drop 5)

/-! ## PulseEncoder and SymbolTable -/

/-- The LONG symbols (R181 to R184): each appends a high segment of T and a low one of its multiple. -/
def Obligations.LongSymbolSegments : Prop :=
  ∀ (s : State),
    let T := s.cfg.t
    exec .emitZero s = .next (s.setBuild (s.build ++ [⟨true, T⟩, ⟨false, s.cfg.zeroLowMult * T⟩]))
    ∧ exec .emitOne s = .next (s.setBuild (s.build ++ [⟨true, T⟩, ⟨false, s.cfg.oneLowMult * T⟩]))
    ∧ exec .emitInit s
        = .next (s.setBuild (s.build ++ [⟨true, T⟩, ⟨false, s.cfg.initLowMult * T⟩]))
    ∧ exec .emitEndGap s
        = .next (s.setBuild (s.build ++ [⟨true, T⟩, ⟨false, s.cfg.gapMult * T⟩]))

/-- The SHORT bits (R185): two sub-pulses, the place of the long gap by SHORT_ONE_LONG_GAP_FIRST. -/
def Obligations.ShortBitSegments : Prop :=
  ∀ (s : State) (first : Bool), s.cfg.shortOneLongGapFirst = some first →
    let T := s.cfg.t
    let L := s.cfg.shortLongLowMult * T
    let late : List Segment := [⟨true, T⟩, ⟨false, T⟩, ⟨true, T⟩, ⟨false, L⟩]
    let early : List Segment := [⟨true, T⟩, ⟨false, L⟩, ⟨true, T⟩, ⟨false, T⟩]
    exec .emitSbit1 s = .next (s.setBuild (s.build ++ (if first then early else late)))
    ∧ exec .emitSbit0 s = .next (s.setBuild (s.build ++ (if first then late else early)))

/-- The model's choice (log 8, log 12): in a configuration that does not give SHORT_ONE_LONG_GAP_FIRST,
which R20 allows under LONG only, the two SHORT bits run all the same, with the two shapes of R185 in
an order that nothing fixes. -/
def Obligations.ShortBitsRunWithoutTheParameter : Prop :=
  ∀ (s : State), s.cfg.shortOneLongGapFirst = none →
    let T := s.cfg.t
    let L := s.cfg.shortLongLowMult * T
    let late : List Segment := [⟨true, T⟩, ⟨false, T⟩, ⟨true, T⟩, ⟨false, L⟩]
    let early : List Segment := [⟨true, T⟩, ⟨false, L⟩, ⟨true, T⟩, ⟨false, T⟩]
    ∃ first : Bool,
      exec .emitSbit1 s = .next (s.setBuild (s.build ++ (if first then early else late)))
      ∧ exec .emitSbit0 s = .next (s.setBuild (s.build ++ (if first then late else early)))

/-- Running a frame's EMIT operations in order builds the frame (R186, R187, R201, R202). -/
def Obligations.EmitOperationsBuildTheFrame : Prop :=
  ∀ (s : State) (ident : Identity) (cmd : Command),
    runOps (frameOps s.cfg ident cmd) s
      = .next (s.setBuild (s.build ++ frame s.cfg ident cmd))

/-- The round trip (R189): each of the 16 PayloadValues of a frame is read back from its eight segments,
under either protocol, in every well-formed configuration. -/
def Obligations.FrameReadsBack : Prop :=
  ∀ (c : Config) (ident : Identity) (cmd : Command) (i : Nat), c.wellFormed = true → i < 16 →
    readValue c (((frame c ident cmd).drop (2 + 8 * i)).take 8) = (payload ident cmd)[i]?

/-! ## FrameTransmitter -/

/-- The LONG frame's layout (R201): 132 segments, 66 of them high, each at its index. -/
def Obligations.LongFrameLayout : Prop :=
  ∀ (c : Config) (ident : Identity) (cmd : Command), c.protocol = .long →
    let f := frame c ident cmd
    f.length = 132 ∧ f.countP (fun g => g.level) = 66
    ∧ f[0]? = some ⟨true, c.t⟩ ∧ f[1]? = some ⟨false, c.initLowMult * c.t⟩
    ∧ f[130]? = some ⟨true, c.t⟩ ∧ f[131]? = some ⟨false, c.gapMult * c.t⟩
    ∧ (∀ i j v, i < 16 → j < 4 →
        (ident.toList ++ [cmd.state, cmd.group, cmd.device])[i]? = some v →
        f[2 + 8 * i + 2 * j]? = some ⟨true, c.t⟩
        ∧ f[3 + 8 * i + 2 * j]? = some ⟨false,
            (if (c.symbolTableLong[v.toNat]).getMsbD j then c.oneLowMult else c.zeroLowMult) * c.t⟩)

/-- The SHORT frame's layout (R202): 132 segments, the four of bit j of position i at
2 + 8i + 4j to 5 + 8i + 4j. -/
def Obligations.ShortFrameLayout : Prop :=
  ∀ (c : Config) (ident : Identity) (cmd : Command) (first : Bool), c.protocol = .short →
    c.shortOneLongGapFirst = some first →
    let f := frame c ident cmd
    let L := c.shortLongLowMult * c.t
    f.length = 132 ∧ f.countP (fun g => g.level) = 66
    ∧ f[0]? = some ⟨true, c.t⟩ ∧ f[1]? = some ⟨false, c.initLowMult * c.t⟩
    ∧ f[130]? = some ⟨true, c.t⟩ ∧ f[131]? = some ⟨false, c.gapMult * c.t⟩
    ∧ (∀ i j v, i < 16 → j < 2 →
        (ident.toList ++ [cmd.state, cmd.group, cmd.device])[i]? = some v →
        let early := ((c.symbolTableShort[v.toNat]).getMsbD j == first)
        f[2 + 8 * i + 4 * j]? = some ⟨true, c.t⟩
        ∧ f[3 + 8 * i + 4 * j]? = some ⟨false, if early then L else c.t⟩
        ∧ f[4 + 8 * i + 4 * j]? = some ⟨true, c.t⟩
        ∧ f[5 + 8 * i + 4 * j]? = some ⟨false, if early then c.t else L⟩)

/-- The frame's length in time (R209): with the default multipliers and table 308·T under LONG, and
11·T + 32·(3·T + L) + 41·T under SHORT. -/
def Obligations.FrameDuration : Prop :=
  ∀ (c : Config) (ident : Identity) (cmd : Command),
    c.initLowMult = 10 → c.gapMult = 40 →
    let total := ((frame c ident cmd).map Segment.dur).sum
    let L := c.shortLongLowMult * c.t
    (frame c ident cmd).length = 132 ∧ (frame c ident cmd).countP (fun g => g.level) = 66
    ∧ ((wave c ident cmd).map Segment.dur).sum = c.repeatCount * total
    ∧ (c.protocol = .long → c.zeroLowMult = 1 → c.oneLowMult = 5 →
      c.symbolTableLong = #v[0b0101, 0b0110, 0b1001, 0b1010] → total = 308 * c.t)
    ∧ (c.protocol = .short → total = 11 * c.t + 32 * (3 * c.t + L) + 41 * c.t)

/-- The waveform of a send (R203): REPEAT frames, each equal to FRAME, 132·REPEAT segments in all. -/
def Obligations.WaveIsRepeatedFrames : Prop :=
  ∀ (s : State) (cmd : Command),
    let f := frame s.cfg (profileOf s.cfg s.custom cmd.sel.toNat) cmd
    (waveOf s cmd).length = 132 * s.cfg.repeatCount
    ∧ (∀ r, r < s.cfg.repeatCount → ((waveOf s cmd).drop (132 * r)).take 132 = f)
    ∧ (s.cfg.repeatCount = 0 → exec (.send cmd) s = .next s)

/-- SEND (R200): dropped for a selector beyond the profiles and for REPEAT = 0; otherwise the send
starts with its whole waveform, at its first segment, which lasts T·K cycles. The profile is the
custom slot for selector 0 and the configuration's constant for the others (R40). -/
def Obligations.SendStartsTheWaveform : Prop :=
  ∀ (s : State) (cmd : Command),
    (s.cfg.numProfiles ≤ cmd.sel.toNat → exec (.send cmd) s = .next s)
    ∧ (cmd.sel.toNat < s.cfg.numProfiles → s.cfg.repeatCount = 0 → exec (.send cmd) s = .next s)
    ∧ (cmd.sel.toNat < s.cfg.numProfiles → s.cfg.repeatCount ≠ 0 →
        exec (.send cmd) s = .next (s.setTx {
          active := true, cmd := cmd, wave := waveOf s cmd, idx := 0
          cnt := s.cfg.t * s.cfg.cyclesPerUnit }))
    ∧ (cmd.sel = 0 → waveOf s cmd = wave s.cfg s.custom cmd)
    ∧ (∀ ident, cmd.sel ≠ 0 → s.cfg.profiles[cmd.sel.toNat - 1]? = some ident →
        waveOf s cmd = wave s.cfg ident cmd)

/-- TX_STEP during a send (R204): the head segment goes to the trace, the rest is left, the last one
ends the send; buffer and timer are neither read nor written. -/
def Obligations.TxStepEmitsOneSegment : Prop :=
  ∀ (s : State) (seg : Segment) (rest : List Segment),
    s.tx.active = true → s.tx.wave = seg :: rest →
    ∃ t, exec .txStep s = .next t
      ∧ t.trace = s.trace ++ [seg] ∧ t.tx.wave = rest ∧ t.tx.active = !rest.isEmpty
      ∧ t.tx.cmd = s.tx.cmd ∧ t = (s.setTx t.tx).setTrace t.trace

/-- Quiescence (R273) and TX_STEP without a send (log 6): no tick, no TX_STEP and no absent event changes
a quiescent block, and TX_STEP changes nothing whenever no send is in progress. With a send and no
segment left it stops, in states that no run reaches. -/
def Obligations.QuiescentBlockHolds : Prop :=
  ∀ (s : State),
    (s.tx.active = false → exec .txStep s = .next s)
    ∧ (quiescent s = true → exec .onTick s = .next s)
    ∧ (quiescent s = true → s.cfg.wellFormed = true → s.agenda = [] → step s = .next s)
    ∧ (s.tx.active = true → s.tx.wave = [] → exec .txStep s = .fault .emptyWave)

/-- A send emits its waveform and ends (R208): from any two states with the same configuration and the
same profile for the command, SEND and then as many TX_STEPs as the waveform has segments append the
same segments to the trace, and the send is over. -/
def Obligations.SendsOfOneCommandAreEqual : Prop :=
  ∀ (s s' : State) (cmd : Command),
    s.cfg = s'.cfg →
    profileOf s.cfg s.custom cmd.sel.toNat = profileOf s'.cfg s'.custom cmd.sel.toNat →
    cmd.sel.toNat < s.cfg.numProfiles → s.tx.active = false → s'.tx.active = false →
    ∃ t t', runOps (.send cmd :: List.replicate (132 * s.cfg.repeatCount) .txStep) s = .next t
      ∧ runOps (.send cmd :: List.replicate (132 * s.cfg.repeatCount) .txStep) s' = .next t'
      ∧ t.trace = s.trace ++ waveOf s cmd ∧ t'.trace = s'.trace ++ waveOf s cmd
      ∧ t.tx.active = false ∧ t'.tx.active = false ∧ t.custom = s.custom

/-- The end of a send (R206): after the last segment the line is low, where it already was; the timer
counts again from where it stands, and fires when it has counted TH ticks. -/
def Obligations.EndOfASend : Prop :=
  ∀ (s : State) (seg : Segment), TxInv s → TimerInv s → s.tx.active = true → s.tx.wave = [seg] →
    ∃ t, exec .txStep s = .next t ∧ t.tx.active = false ∧ txOut s = false ∧ txOut t = false
      ∧ t.bt = s.bt ∧ modeOf t = (if s.bt.armed then Mode.accumulating else Mode.idle)
      ∧ (s.bt.armed = true →
          runOps (List.replicate (s.cfg.idleThreshold - s.bt.elapsed) .onTick) t = exec .fire t)

/-- Blocking (R207, R74): while a send is in progress no event of an agent but a reset changes the
command being sent, the custom slot, the count of the timer except by a byte, or the bytes waiting in
the buffer except by one byte at their end; and the transmitter holds, counts one cycle down inside a
segment, or goes on to the next segment, the send ending only after its last. -/
def Obligations.SendIsNotDisturbed : Prop :=
  ∀ (s t : State), RunInv s → s.tx.active = true → resetsNext s = false → step s = .next t →
    t.tx.cmd = s.tx.cmd ∧ t.custom = s.custom ∧ waveOf t t.tx.cmd = waveOf s s.tx.cmd
    ∧ (t.tx = s.tx
        ∨ (1 < s.tx.cnt ∧ t.tx = { s.tx with cnt := s.tx.cnt - 1 })
        ∨ (t.tx = txAfter s.cfg s.tx s.tx.wave.tail
            ∧ t.tx.wave = s.tx.wave.tail ∧ t.tx.active = !s.tx.wave.tail.isEmpty))
    ∧ (t.bt = s.bt ∨ t.bt = { armed := true, elapsed := 0 })
    ∧ ∃ more, more.length ≤ 1 ∧ liveBytes t = liveBytes s ++ more

/-! ## Cycle level -/

/-- A reset cycle (R32): every register of R48 takes its reset value and nothing else the cycle carries
has an effect. That its serial timing is checked too is the model's reading (log 11). -/
def Obligations.ResetCycleOutranksEverything : Prop :=
  ∀ (s : State) (p : Pins), p.rst = true → timingKept s.cfg.sampleEdge s.mon p = true →
    ∃ t, cycle p s = .next t ∧ t = (resetBlock s).setMon t.mon
      ∧ t.rb = { data := [], size := 0, rd := 0, wr := 0 } ∧ t.bt = { armed := false, elapsed := 0 }
      ∧ t.rx = { shift := 0, count := 0 } ∧ t.tx.active = false ∧ txOut t = false

/-- The receiver in a cycle (R103): the synchronizer shifts; the receiver is cleared while deselected,
samples the synchronized data at an edge, and holds otherwise. -/
def Obligations.ReceiverFollowsTheSynchronizer : Prop :=
  ∀ (s t : State) (p : Pins), p.rst = false → cycle p s = .next t →
    t.sync = { sclk1 := p.sclk, sclk2 := s.sync.sclk1, sclk3 := s.sync.sclk2,
               sdi1 := p.sdi, sdi2 := s.sync.sdi1, ss1 := p.ssn, ss2 := s.sync.ss1 }
    ∧ (s.sync.ss2 = true → t.rx = { shift := 0, count := 0 })
    ∧ (s.sync.ss2 = false → syncSeesEdge s →
        t.rx.count = s.rx.count + 1
        ∧ t.rx.shift = BitVec.ofNat 8 ((s.rx.shift.toNat * 2 + s.sync.sdi2.toNat) % 256))
    ∧ (s.sync.ss2 = false → ¬ syncSeesEdge s → t.rx = s.rx)

/-- Priority in a cycle (R144): a cycle that completes a byte is ON_BYTE of it, and a tick in it has no
effect; a tick during a send, its last cycle included, leaves the timer alone; any other tick is
ON_TICK, and no sequencer step acts with the FIRE it may cause. -/
def Obligations.ByteWinsOverTick : Prop :=
  ∀ (s : State) (p : Pins), p.rst = false →
    let b : Byte := BitVec.ofNat 8 ((s.rx.shift.toNat * 2 + s.sync.sdi2.toNat) % 256)
    (byteEvent (portWord s p) = true →
      cycle { p with tick := true } s = cycle { p with tick := false } s
      ∧ ∀ t, cycle p s = .next t → ∃ u, exec (.onByte b) s = .next u ∧ t.rb = u.rb ∧ t.bt = u.bt)
    ∧ (byteEvent (portWord s p) = false → s.tx.active = true →
        ∀ t, cycle p s = .next t → t.bt = s.bt ∧ t.rb = s.rb)
    ∧ (byteEvent (portWord s p) = false → s.tx.active = false → p.tick = true →
        ∀ t, cycle p s = .next t → ∃ u, exec .onTick s = .next u
          ∧ t.bt = u.bt ∧ t.rb = u.rb ∧ t.custom = u.custom ∧ t.tx = u.tx)

/-- The cycle-level sequencer (R205): with W the waveform of the command being sent, the counter, the
index and the end of the send move as R205 says, and `tx_out` is the level of segment `tx.idx`. -/
def Obligations.SequencerFollowsTheWaveform : Prop :=
  ∀ (s t : State) (p : Pins), RunInv s → s.tx.active = true → p.rst = false → cycle p s = .next t →
    let W := waveOf s s.tx.cmd
    ∃ cur, W[s.tx.idx]? = some cur ∧ txOut s = cur.level
      ∧ t.tx.cmd = s.tx.cmd ∧ waveOf t t.tx.cmd = W
      ∧ (1 < s.tx.cnt → t.tx = { s.tx with cnt := s.tx.cnt - 1 })
      ∧ (¬ 1 < s.tx.cnt → ∀ nxt, W[s.tx.idx + 1]? = some nxt →
          t.tx.active = true ∧ t.tx.idx = s.tx.idx + 1
          ∧ t.tx.cnt = nxt.dur * s.cfg.cyclesPerUnit)
      ∧ (¬ 1 < s.tx.cnt → W[s.tx.idx + 1]? = none →
          t.tx.active = false ∧ t.tx.idx = s.tx.idx ∧ t.tx.cnt = s.tx.cnt ∧ txOut t = false)

/-- The output line cycle by cycle (R205, R180, R44): during a send that no reset cuts, whatever the
serial pins and the ticks do, the line shows the waveform's levels, each segment for exactly d·K
cycles, and is low when it has ended. -/
def Obligations.LineShowsTheWaveformCycleByCycle : Prop :=
  ∀ (ps : List Pins) (s t : State), RunInv s → s.tx.active = true →
    (∀ p ∈ ps, p.rst = false) → runCycles ps s = .next t →
    (∀ h : ps.length < (lineAhead s).length,
      t.tx.active = true ∧ txOut t = (lineAhead s)[ps.length])
    ∧ (ps.length = (lineAhead s).length → t.tx.active = false ∧ txOut t = false)

/-- The two levels agree (R5): a run of cycles leaves what the event-level operations it carries leave,
seen at the event level. -/
def Obligations.CyclesRefineEvents : Prop :=
  ∀ (ps : List Pins) (s t : State), runCycles ps s = .next t →
    ∃ u, runOps (carriedOps ps s) s = .next u ∧ eventView u = eventView t

/-- The host's serial timing (R269, in the model's reading of it, log 11): a run of cycles that answers a
next state keeps it, so that every run that breaks it is refused; and from a state of a run that has seen
no pins yet, every run of cycles that keeps it answers a next state. -/
def Obligations.SerialTimingIsEnforced : Prop :=
  ∀ (ps : List Pins) (s : State),
    (∀ t, runCycles ps s = .next t → keepsSerialTiming s.cfg.sampleEdge ps)
    ∧ (RunInv s → s.mon = Monitor.start → keepsSerialTiming s.cfg.sampleEdge ps →
        ∃ t, runCycles ps s = .next t)

/-! ## Reset, invariants, the whole machine -/

/-- RESET (R260, R48): every field of the reset table at its value; the observer's trace is kept. -/
def Obligations.ResetLeavesTheTable : Prop :=
  ∀ (s : State), ∃ t, exec .reset s = .next t
    ∧ t.rx = { shift := 0x00, count := 0 }
    ∧ t.sync = { sclk1 := false, sclk2 := false, sclk3 := false, sdi1 := false, sdi2 := false,
                 ss1 := true, ss2 := true }
    ∧ (∀ i, t.rb.data.read i = 0x00) ∧ t.rb.size = 0 ∧ t.rb.rd = 0 ∧ t.rb.wr = 0
    ∧ t.bt = { armed := false, elapsed := 0 } ∧ (∀ i : Fin 13, t.custom[i] = 0)
    ∧ t.tx = { active := false, cmd := { sel := 0, state := 0, group := 0, device := 0 },
               wave := [], idx := 0, cnt := 1 }
    ∧ txOut t = false ∧ modeOf t = .idle ∧ t.trace = s.trace ∧ t.cfg = s.cfg

/-- The state after reset (R261, R48), in every configuration: the mode is Idle, the buffer empty, the
timer disarmed, the line low, the receiver at a byte boundary, nothing emitted; a RESET run there
changes nothing. State.reset is that state in the test configuration: the model's choice (log 3). -/
def Obligations.ResetStateIsIdle : Prop :=
  ∀ (c : Config),
    let s := State.resetOf c
    modeOf s = .idle ∧ liveBytes s = [] ∧ s.bt.armed = false ∧ txOut s = false
    ∧ s.rx.count = 0 ∧ s.trace = [] ∧ quiescent s = true ∧ exec .reset s = .next s
    ∧ State.reset = State.resetOf Config.tc

/-- The invariant of a run holds at reset, in every well-formed configuration. -/
def Obligations.ResetMeetsTheRunInvariant : Prop :=
  (∀ c : Config, c.wellFormed = true → RunInv (State.resetOf c)) ∧ RunInv State.reset

/-- Every operation, whoever runs it and in whatever state, keeps the buffer's invariant
`rb.wr = (rb.rd + rb.size) mod C` with the storage canonical and inside RBS, and the timer's invariant
(R36, R38, R124). -/
def Obligations.EveryOperationKeepsTheBlockInvariant : Prop :=
  ∀ (i : Instr) (s t : State), BlockInv s → exec i s = .next t → BlockInv t

/-- Every step of a run whose events come from the agents keeps the invariant of the run: buffer, timer
and transmitter (R36, R38, R42, R43). -/
def Obligations.EveryStepKeepsTheRunInvariant : Prop :=
  ∀ (s t : State), RunInv s → step s = .next t → RunInv t

/-- The block never stops (R230): in a run whose events come from the agents a step answers a next state,
except where the spec refuses the run: a BYTE at the byte abstraction off a byte boundary (R104) and a
cycle that breaks the host's serial timing (R269, in the model's reading of it, log 11). -/
def Obligations.TheBlockNeverStops : Prop :=
  ∀ (s : State), RunInv s →
    (∃ t, step s = .next t)
    ∨ (∃ b rest, s.agenda = .byte b :: rest ∧ s.rx.count ≠ 0 ∧ step s = .refused .misalignedByte)
    ∨ (∃ p rest, s.agenda = .cycle p :: rest ∧ timingKept s.cfg.sampleEdge s.mon p = false
        ∧ step s = .refused .serialTiming)

/-- Nothing in the configuration changes while the block runs (R21). -/
def Obligations.ConfigurationNeverChanges : Prop :=
  ∀ (s t : State), step s = .next t → t.cfg = s.cfg

/-- Writers (R50): each state element is changed only by the operations of the table, or by an operation
that calls one of them. -/
def Obligations.OnlyTheListedWritersWrite : Prop :=
  ∀ (i : Instr) (s t : State), exec i s = .next t → i ≠ .reset →
    (t.rx ≠ s.rx → runsReceiver i = true)
    ∧ (t.rb.data ≠ s.rb.data ∨ t.rb.wr ≠ s.rb.wr → runsPush i = true)
    ∧ (t.rb.rd ≠ s.rb.rd → runsPop i = true)
    ∧ (t.rb.size ≠ s.rb.size → runsPush i = true ∨ runsPop i = true)
    ∧ (t.bt ≠ s.bt → runsTimer i = true)
    ∧ (t.custom ≠ s.custom → runsCmdLong i = true)
    ∧ (t.tx ≠ s.tx → runsTransmitter i = true)
    ∧ (txOut t ≠ txOut s → runsTransmitter i = true)
    ∧ (t.trace ≠ s.trace → i = .txStep) ∧ t.sync = s.sync

/-! ## Frames -/

/-- What PUSH, ON_BYTE, BYTE_DONE and SAMPLE leave: every byte of RBS except slot `rb.wr`, and every byte
when the buffer is full or no byte is completed; the read index; the synchronizer, the custom slot, the
transmitter, the trace, and, for all but SAMPLE, the receiver; PUSH leaves the timer. -/
def Obligations.StoringOperationsFrame : Prop :=
  ∀ (s t : State) (b : Byte) (bit : Bool) (i : Instr),
    i ∈ [Instr.push b, .onByte b, .byteDone b, .sample bit] → exec i s = .next t →
    (∀ a, a ≠ s.rb.wr → t.rb.data.read a = s.rb.data.read a)
    ∧ (s.rb.size = s.cfg.capacity ∨ (i = .sample bit ∧ s.rx.count ≠ 7) → t.rb = s.rb)
    ∧ t.rb.rd = s.rb.rd ∧ t.sync = s.sync ∧ t.custom = s.custom ∧ t.tx = s.tx ∧ t.trace = s.trace
    ∧ t.cfg = s.cfg ∧ t.ret = s.ret ∧ t.build = s.build ∧ t.agenda = s.agenda ∧ t.mon = s.mon
    ∧ (i ≠ .sample bit → t.rx = s.rx) ∧ (i = .push b → t.bt = s.bt)
    ∧ (i = .sample bit → s.rx.count ≠ 7 → t.bt = s.bt)

/-- What POP, DECODE, CMD_SHORT and CMD_LONG leave: every byte of RBS and the write index, and every
other register; POP and CMD_SHORT leave the custom slot too. -/
def Obligations.PoppingOperationsFrame : Prop :=
  ∀ (s t : State) (sel : Byte) (i : Instr),
    i ∈ [Instr.pop, .decode, .cmdShort sel, .cmdLong] → exec i s = .next t →
    (∀ a, t.rb.data.read a = s.rb.data.read a) ∧ t.rb.data = s.rb.data ∧ t.rb.wr = s.rb.wr
    ∧ t.rx = s.rx ∧ t.sync = s.sync ∧ t.bt = s.bt ∧ t.tx = s.tx ∧ t.trace = s.trace
    ∧ t.cfg = s.cfg ∧ t.build = s.build ∧ t.agenda = s.agenda ∧ t.mon = s.mon
    ∧ (i = .pop ∨ i = .cmdShort sel → t.custom = s.custom)

/-- What BT_RESTART, ON_TICK and FIRE leave: every byte of RBS and the write index, the receiver, the
synchronizer, the trace; BT_RESTART leaves everything but the timer. -/
def Obligations.TimerOperationsFrame : Prop :=
  ∀ (s t : State) (i : Instr), i ∈ [Instr.btRestart, .onTick, .fire] → exec i s = .next t →
    (∀ a, t.rb.data.read a = s.rb.data.read a) ∧ t.rb.data = s.rb.data ∧ t.rb.wr = s.rb.wr
    ∧ t.rx = s.rx ∧ t.sync = s.sync ∧ t.trace = s.trace
    ∧ t.cfg = s.cfg ∧ t.ret = s.ret ∧ t.build = s.build ∧ t.agenda = s.agenda ∧ t.mon = s.mon
    ∧ (i = .btRestart → t.rb = s.rb ∧ t.custom = s.custom ∧ t.tx = s.tx)

/-- What the operations that store nothing and touch neither buffer nor timer leave: the queries, the
EMIT operations, SEND, TX_STEP and DESELECT. -/
def Obligations.NonStoringOperationsFrame : Prop :=
  ∀ (s t : State) (cmd : Command) (i : Instr),
    i ∈ [Instr.isEmpty, .isFull, .emitZero, .emitOne, .emitInit, .emitEndGap, .emitSbit0, .emitSbit1,
      .send cmd, .txStep, .deselect] → exec i s = .next t →
    (∀ a, t.rb.data.read a = s.rb.data.read a) ∧ t.rb = s.rb ∧ t.sync = s.sync ∧ t.bt = s.bt
    ∧ t.custom = s.custom ∧ t.cfg = s.cfg ∧ t.agenda = s.agenda ∧ t.mon = s.mon
    ∧ (i ≠ .deselect → t.rx = s.rx) ∧ (i ≠ .send cmd → i ≠ .txStep → t.tx = s.tx)
    ∧ (i ≠ .txStep → t.trace = s.trace)
end

