-- ==== Sys2Proof/Laws/Memory.lean ====
section
/-! SUPPORT. The ring storage as canonical cells: a read after a write, and that every write keeps the
canonical form and the address range (20_memory.md R61). -/

namespace Sys2Proof.Machine

/-- Below the first address of a canonical list nothing is listed. -/
theorem Memory.read_below {m : Memory} {lo a : Nat} (h : Memory.wfAbove lo m = true) (ha : a < lo) :
    Memory.read m a = 0 := by
  induction m generalizing lo with
  | nil => rfl
  | cons cell m ih =>
    obtain ⟨k, v⟩ := cell
    simp only [Memory.wfAbove, Bool.and_eq_true, decide_eq_true_eq] at h
    have : a ≠ k := by omega
    simpa [Memory.read, this] using ih h.2 (by omega)

theorem Memory.wfAbove_mono {m : Memory} {lo lo' : Nat} (h : Memory.wfAbove lo m = true)
    (hle : lo' ≤ lo) : Memory.wfAbove lo' m = true := by
  cases m with
  | nil => rfl
  | cons cell m =>
    obtain ⟨k, v⟩ := cell
    simp only [Memory.wfAbove, Bool.and_eq_true, decide_eq_true_eq] at h ⊢
    exact ⟨⟨by omega, h.1.2⟩, h.2⟩

theorem Memory.read_write_other (m : Memory) {a a' : Nat} (b : Byte) (h : a' ≠ a) :
    (Memory.write m a b).read a' = Memory.read m a' := by
  induction m with
  | nil =>
    simp only [Memory.write]
    split <;> simp [Memory.read, h]
  | cons cell m ih =>
    obtain ⟨k, v⟩ := cell
    simp only [Memory.write]
    split
    · split <;> simp [Memory.read, h]
    · split
      · subst_vars
        split <;> simp [Memory.read, h]
      · simp [Memory.read, ih]

theorem Memory.read_write_same {m : Memory} {lo : Nat} (h : Memory.wfAbove lo m = true) (a : Nat)
    (b : Byte) : (Memory.write m a b).read a = b := by
  induction m generalizing lo with
  | nil =>
    simp only [Memory.write]
    split <;> simp_all [Memory.read]
  | cons cell m ih =>
    obtain ⟨k, v⟩ := cell
    simp only [Memory.wfAbove, Bool.and_eq_true, decide_eq_true_eq] at h
    simp only [Memory.write]
    split
    · split
      · have hk : a ≠ k := by omega
        simp only [Memory.read, hk, if_false, Memory.read_below h.2 (show a < k + 1 by omega)]
        exact Eq.symm ‹_›
      · simp [Memory.read]
    · split
      · split
        · rw [Memory.read_below h.2 (show a < k + 1 by omega)]
          exact Eq.symm ‹b = 0›
        · simp [Memory.read]
      · simpa [Memory.read, *] using ih h.2

theorem Memory.write_wfAbove {m : Memory} {lo : Nat} (h : Memory.wfAbove lo m = true) {a : Nat}
    (b : Byte) (ha : lo ≤ a) : Memory.wfAbove lo (Memory.write m a b) = true := by
  induction m generalizing lo with
  | nil =>
    simp only [Memory.write]
    split <;> simp_all [Memory.wfAbove]
  | cons cell m ih =>
    obtain ⟨k, v⟩ := cell
    have h0 := h
    simp only [Memory.wfAbove, Bool.and_eq_true, decide_eq_true_eq] at h
    simp only [Memory.write]
    split
    · split
      · exact h0
      · rename_i hb
        simp only [Memory.wfAbove, Bool.and_eq_true, decide_eq_true_eq]
        exact ⟨⟨ha, by simpa using hb⟩, ⟨by omega, h.1.2⟩, h.2⟩
    · split
      · split
        · exact Memory.wfAbove_mono h.2 (by omega)
        · rename_i hb
          subst_vars
          simp only [Memory.wfAbove, Bool.and_eq_true, decide_eq_true_eq]
          exact ⟨⟨h.1.1, by simpa using hb⟩, h.2⟩
      · simp only [Memory.wfAbove, Bool.and_eq_true, decide_eq_true_eq]
        exact ⟨h.1, ih h.2 (by omega)⟩

/-- Every write keeps the canonical form. -/
theorem Memory.write_wf {m : Memory} (h : m.wf = true) (a : Nat) (b : Byte) :
    (m.write a b).wf = true :=
  Memory.write_wfAbove h b (Nat.zero_le a)

/-- A write lists no address but its own that was not listed. -/
theorem Memory.mem_write {m : Memory} {a : Nat} {b : Byte} {cell : Host.Cell}
    (h : cell ∈ m.write a b) : cell.1 = a ∨ cell ∈ m := by
  induction m with
  | nil =>
    by_cases hb : b = 0 <;> simp_all [Memory.write]
  | cons c m ih =>
    obtain ⟨k, v⟩ := c
    simp only [Memory.write] at h
    split at h
    · split at h
      · exact .inr h
      · rcases List.mem_cons.1 h with rfl | h
        · exact .inl rfl
        · exact .inr h
    · split at h
      · split at h
        · exact .inr (List.mem_cons_of_mem _ h)
        · rcases List.mem_cons.1 h with rfl | h
          · exact .inl rfl
          · exact .inr (List.mem_cons_of_mem _ h)
      · rcases List.mem_cons.1 h with rfl | h
        · exact .inr List.mem_cons_self
        · exact (ih h).imp id (List.mem_cons_of_mem _)

/-- The reset contents are canonical. -/
theorem Memory.reset_wf : Memory.wf State.reset.rb.data = true := rfl

end Sys2Proof.Machine
end

