-- ==== Sys2Proof/Laws/State.lean ====
section
/-! SUPPORT. One lemma per field per update of `State`: what each setter, and the reset of the registers,
leaves in each field. -/

namespace Sys2Proof.Machine

/-! ### setRx -/

@[simp] theorem State.setRx_cfg (s : State) (v : Rx) : (s.setRx v).cfg = s.cfg := rfl
@[simp] theorem State.setRx_rx (s : State) (v : Rx) : (s.setRx v).rx = v := rfl
@[simp] theorem State.setRx_sync (s : State) (v : Rx) : (s.setRx v).sync = s.sync := rfl
@[simp] theorem State.setRx_rb (s : State) (v : Rx) : (s.setRx v).rb = s.rb := rfl
@[simp] theorem State.setRx_bt (s : State) (v : Rx) : (s.setRx v).bt = s.bt := rfl
@[simp] theorem State.setRx_custom (s : State) (v : Rx) : (s.setRx v).custom = s.custom := rfl
@[simp] theorem State.setRx_tx (s : State) (v : Rx) : (s.setRx v).tx = s.tx := rfl
@[simp] theorem State.setRx_trace (s : State) (v : Rx) : (s.setRx v).trace = s.trace := rfl
@[simp] theorem State.setRx_ret (s : State) (v : Rx) : (s.setRx v).ret = s.ret := rfl
@[simp] theorem State.setRx_build (s : State) (v : Rx) : (s.setRx v).build = s.build := rfl
@[simp] theorem State.setRx_agenda (s : State) (v : Rx) : (s.setRx v).agenda = s.agenda := rfl
@[simp] theorem State.setRx_mon (s : State) (v : Rx) : (s.setRx v).mon = s.mon := rfl
@[simp] theorem State.setRx_self (s : State) : s.setRx s.rx = s := rfl
@[simp] theorem State.setRx_setRx (s : State) (v w : Rx) : (s.setRx v).setRx w = s.setRx w := rfl

/-! ### setSync -/

@[simp] theorem State.setSync_cfg (s : State) (v : Sync) : (s.setSync v).cfg = s.cfg := rfl
@[simp] theorem State.setSync_rx (s : State) (v : Sync) : (s.setSync v).rx = s.rx := rfl
@[simp] theorem State.setSync_sync (s : State) (v : Sync) : (s.setSync v).sync = v := rfl
@[simp] theorem State.setSync_rb (s : State) (v : Sync) : (s.setSync v).rb = s.rb := rfl
@[simp] theorem State.setSync_bt (s : State) (v : Sync) : (s.setSync v).bt = s.bt := rfl
@[simp] theorem State.setSync_custom (s : State) (v : Sync) : (s.setSync v).custom = s.custom := rfl
@[simp] theorem State.setSync_tx (s : State) (v : Sync) : (s.setSync v).tx = s.tx := rfl
@[simp] theorem State.setSync_trace (s : State) (v : Sync) : (s.setSync v).trace = s.trace := rfl
@[simp] theorem State.setSync_ret (s : State) (v : Sync) : (s.setSync v).ret = s.ret := rfl
@[simp] theorem State.setSync_build (s : State) (v : Sync) : (s.setSync v).build = s.build := rfl
@[simp] theorem State.setSync_agenda (s : State) (v : Sync) : (s.setSync v).agenda = s.agenda := rfl
@[simp] theorem State.setSync_mon (s : State) (v : Sync) : (s.setSync v).mon = s.mon := rfl
@[simp] theorem State.setSync_self (s : State) : s.setSync s.sync = s := rfl
@[simp] theorem State.setSync_setSync (s : State) (v w : Sync) : (s.setSync v).setSync w = s.setSync w := rfl

/-! ### setRb -/

@[simp] theorem State.setRb_cfg (s : State) (v : Ring) : (s.setRb v).cfg = s.cfg := rfl
@[simp] theorem State.setRb_rx (s : State) (v : Ring) : (s.setRb v).rx = s.rx := rfl
@[simp] theorem State.setRb_sync (s : State) (v : Ring) : (s.setRb v).sync = s.sync := rfl
@[simp] theorem State.setRb_rb (s : State) (v : Ring) : (s.setRb v).rb = v := rfl
@[simp] theorem State.setRb_bt (s : State) (v : Ring) : (s.setRb v).bt = s.bt := rfl
@[simp] theorem State.setRb_custom (s : State) (v : Ring) : (s.setRb v).custom = s.custom := rfl
@[simp] theorem State.setRb_tx (s : State) (v : Ring) : (s.setRb v).tx = s.tx := rfl
@[simp] theorem State.setRb_trace (s : State) (v : Ring) : (s.setRb v).trace = s.trace := rfl
@[simp] theorem State.setRb_ret (s : State) (v : Ring) : (s.setRb v).ret = s.ret := rfl
@[simp] theorem State.setRb_build (s : State) (v : Ring) : (s.setRb v).build = s.build := rfl
@[simp] theorem State.setRb_agenda (s : State) (v : Ring) : (s.setRb v).agenda = s.agenda := rfl
@[simp] theorem State.setRb_mon (s : State) (v : Ring) : (s.setRb v).mon = s.mon := rfl
@[simp] theorem State.setRb_self (s : State) : s.setRb s.rb = s := rfl
@[simp] theorem State.setRb_setRb (s : State) (v w : Ring) : (s.setRb v).setRb w = s.setRb w := rfl

/-! ### setBt -/

@[simp] theorem State.setBt_cfg (s : State) (v : Timer) : (s.setBt v).cfg = s.cfg := rfl
@[simp] theorem State.setBt_rx (s : State) (v : Timer) : (s.setBt v).rx = s.rx := rfl
@[simp] theorem State.setBt_sync (s : State) (v : Timer) : (s.setBt v).sync = s.sync := rfl
@[simp] theorem State.setBt_rb (s : State) (v : Timer) : (s.setBt v).rb = s.rb := rfl
@[simp] theorem State.setBt_bt (s : State) (v : Timer) : (s.setBt v).bt = v := rfl
@[simp] theorem State.setBt_custom (s : State) (v : Timer) : (s.setBt v).custom = s.custom := rfl
@[simp] theorem State.setBt_tx (s : State) (v : Timer) : (s.setBt v).tx = s.tx := rfl
@[simp] theorem State.setBt_trace (s : State) (v : Timer) : (s.setBt v).trace = s.trace := rfl
@[simp] theorem State.setBt_ret (s : State) (v : Timer) : (s.setBt v).ret = s.ret := rfl
@[simp] theorem State.setBt_build (s : State) (v : Timer) : (s.setBt v).build = s.build := rfl
@[simp] theorem State.setBt_agenda (s : State) (v : Timer) : (s.setBt v).agenda = s.agenda := rfl
@[simp] theorem State.setBt_mon (s : State) (v : Timer) : (s.setBt v).mon = s.mon := rfl
@[simp] theorem State.setBt_self (s : State) : s.setBt s.bt = s := rfl
@[simp] theorem State.setBt_setBt (s : State) (v w : Timer) : (s.setBt v).setBt w = s.setBt w := rfl

/-! ### setCustom -/

@[simp] theorem State.setCustom_cfg (s : State) (v : Identity) : (s.setCustom v).cfg = s.cfg := rfl
@[simp] theorem State.setCustom_rx (s : State) (v : Identity) : (s.setCustom v).rx = s.rx := rfl
@[simp] theorem State.setCustom_sync (s : State) (v : Identity) : (s.setCustom v).sync = s.sync := rfl
@[simp] theorem State.setCustom_rb (s : State) (v : Identity) : (s.setCustom v).rb = s.rb := rfl
@[simp] theorem State.setCustom_bt (s : State) (v : Identity) : (s.setCustom v).bt = s.bt := rfl
@[simp] theorem State.setCustom_custom (s : State) (v : Identity) : (s.setCustom v).custom = v := rfl
@[simp] theorem State.setCustom_tx (s : State) (v : Identity) : (s.setCustom v).tx = s.tx := rfl
@[simp] theorem State.setCustom_trace (s : State) (v : Identity) : (s.setCustom v).trace = s.trace := rfl
@[simp] theorem State.setCustom_ret (s : State) (v : Identity) : (s.setCustom v).ret = s.ret := rfl
@[simp] theorem State.setCustom_build (s : State) (v : Identity) : (s.setCustom v).build = s.build := rfl
@[simp] theorem State.setCustom_agenda (s : State) (v : Identity) : (s.setCustom v).agenda = s.agenda := rfl
@[simp] theorem State.setCustom_mon (s : State) (v : Identity) : (s.setCustom v).mon = s.mon := rfl
@[simp] theorem State.setCustom_self (s : State) : s.setCustom s.custom = s := rfl
@[simp] theorem State.setCustom_setCustom (s : State) (v w : Identity) : (s.setCustom v).setCustom w = s.setCustom w := rfl

/-! ### setTx -/

@[simp] theorem State.setTx_cfg (s : State) (v : Tx) : (s.setTx v).cfg = s.cfg := rfl
@[simp] theorem State.setTx_rx (s : State) (v : Tx) : (s.setTx v).rx = s.rx := rfl
@[simp] theorem State.setTx_sync (s : State) (v : Tx) : (s.setTx v).sync = s.sync := rfl
@[simp] theorem State.setTx_rb (s : State) (v : Tx) : (s.setTx v).rb = s.rb := rfl
@[simp] theorem State.setTx_bt (s : State) (v : Tx) : (s.setTx v).bt = s.bt := rfl
@[simp] theorem State.setTx_custom (s : State) (v : Tx) : (s.setTx v).custom = s.custom := rfl
@[simp] theorem State.setTx_tx (s : State) (v : Tx) : (s.setTx v).tx = v := rfl
@[simp] theorem State.setTx_trace (s : State) (v : Tx) : (s.setTx v).trace = s.trace := rfl
@[simp] theorem State.setTx_ret (s : State) (v : Tx) : (s.setTx v).ret = s.ret := rfl
@[simp] theorem State.setTx_build (s : State) (v : Tx) : (s.setTx v).build = s.build := rfl
@[simp] theorem State.setTx_agenda (s : State) (v : Tx) : (s.setTx v).agenda = s.agenda := rfl
@[simp] theorem State.setTx_mon (s : State) (v : Tx) : (s.setTx v).mon = s.mon := rfl
@[simp] theorem State.setTx_self (s : State) : s.setTx s.tx = s := rfl
@[simp] theorem State.setTx_setTx (s : State) (v w : Tx) : (s.setTx v).setTx w = s.setTx w := rfl

/-! ### setTrace -/

@[simp] theorem State.setTrace_cfg (s : State) (v : List Segment) : (s.setTrace v).cfg = s.cfg := rfl
@[simp] theorem State.setTrace_rx (s : State) (v : List Segment) : (s.setTrace v).rx = s.rx := rfl
@[simp] theorem State.setTrace_sync (s : State) (v : List Segment) : (s.setTrace v).sync = s.sync := rfl
@[simp] theorem State.setTrace_rb (s : State) (v : List Segment) : (s.setTrace v).rb = s.rb := rfl
@[simp] theorem State.setTrace_bt (s : State) (v : List Segment) : (s.setTrace v).bt = s.bt := rfl
@[simp] theorem State.setTrace_custom (s : State) (v : List Segment) : (s.setTrace v).custom = s.custom := rfl
@[simp] theorem State.setTrace_tx (s : State) (v : List Segment) : (s.setTrace v).tx = s.tx := rfl
@[simp] theorem State.setTrace_trace (s : State) (v : List Segment) : (s.setTrace v).trace = v := rfl
@[simp] theorem State.setTrace_ret (s : State) (v : List Segment) : (s.setTrace v).ret = s.ret := rfl
@[simp] theorem State.setTrace_build (s : State) (v : List Segment) : (s.setTrace v).build = s.build := rfl
@[simp] theorem State.setTrace_agenda (s : State) (v : List Segment) : (s.setTrace v).agenda = s.agenda := rfl
@[simp] theorem State.setTrace_mon (s : State) (v : List Segment) : (s.setTrace v).mon = s.mon := rfl
@[simp] theorem State.setTrace_self (s : State) : s.setTrace s.trace = s := rfl
@[simp] theorem State.setTrace_setTrace (s : State) (v w : List Segment) : (s.setTrace v).setTrace w = s.setTrace w := rfl

/-! ### setRet -/

@[simp] theorem State.setRet_cfg (s : State) (v : Ret) : (s.setRet v).cfg = s.cfg := rfl
@[simp] theorem State.setRet_rx (s : State) (v : Ret) : (s.setRet v).rx = s.rx := rfl
@[simp] theorem State.setRet_sync (s : State) (v : Ret) : (s.setRet v).sync = s.sync := rfl
@[simp] theorem State.setRet_rb (s : State) (v : Ret) : (s.setRet v).rb = s.rb := rfl
@[simp] theorem State.setRet_bt (s : State) (v : Ret) : (s.setRet v).bt = s.bt := rfl
@[simp] theorem State.setRet_custom (s : State) (v : Ret) : (s.setRet v).custom = s.custom := rfl
@[simp] theorem State.setRet_tx (s : State) (v : Ret) : (s.setRet v).tx = s.tx := rfl
@[simp] theorem State.setRet_trace (s : State) (v : Ret) : (s.setRet v).trace = s.trace := rfl
@[simp] theorem State.setRet_ret (s : State) (v : Ret) : (s.setRet v).ret = v := rfl
@[simp] theorem State.setRet_build (s : State) (v : Ret) : (s.setRet v).build = s.build := rfl
@[simp] theorem State.setRet_agenda (s : State) (v : Ret) : (s.setRet v).agenda = s.agenda := rfl
@[simp] theorem State.setRet_mon (s : State) (v : Ret) : (s.setRet v).mon = s.mon := rfl
@[simp] theorem State.setRet_self (s : State) : s.setRet s.ret = s := rfl
@[simp] theorem State.setRet_setRet (s : State) (v w : Ret) : (s.setRet v).setRet w = s.setRet w := rfl

/-! ### setBuild -/

@[simp] theorem State.setBuild_cfg (s : State) (v : List Segment) : (s.setBuild v).cfg = s.cfg := rfl
@[simp] theorem State.setBuild_rx (s : State) (v : List Segment) : (s.setBuild v).rx = s.rx := rfl
@[simp] theorem State.setBuild_sync (s : State) (v : List Segment) : (s.setBuild v).sync = s.sync := rfl
@[simp] theorem State.setBuild_rb (s : State) (v : List Segment) : (s.setBuild v).rb = s.rb := rfl
@[simp] theorem State.setBuild_bt (s : State) (v : List Segment) : (s.setBuild v).bt = s.bt := rfl
@[simp] theorem State.setBuild_custom (s : State) (v : List Segment) : (s.setBuild v).custom = s.custom := rfl
@[simp] theorem State.setBuild_tx (s : State) (v : List Segment) : (s.setBuild v).tx = s.tx := rfl
@[simp] theorem State.setBuild_trace (s : State) (v : List Segment) : (s.setBuild v).trace = s.trace := rfl
@[simp] theorem State.setBuild_ret (s : State) (v : List Segment) : (s.setBuild v).ret = s.ret := rfl
@[simp] theorem State.setBuild_build (s : State) (v : List Segment) : (s.setBuild v).build = v := rfl
@[simp] theorem State.setBuild_agenda (s : State) (v : List Segment) : (s.setBuild v).agenda = s.agenda := rfl
@[simp] theorem State.setBuild_mon (s : State) (v : List Segment) : (s.setBuild v).mon = s.mon := rfl
@[simp] theorem State.setBuild_self (s : State) : s.setBuild s.build = s := rfl
@[simp] theorem State.setBuild_setBuild (s : State) (v w : List Segment) : (s.setBuild v).setBuild w = s.setBuild w := rfl

/-! ### setAgenda -/

@[simp] theorem State.setAgenda_cfg (s : State) (v : List Event) : (s.setAgenda v).cfg = s.cfg := rfl
@[simp] theorem State.setAgenda_rx (s : State) (v : List Event) : (s.setAgenda v).rx = s.rx := rfl
@[simp] theorem State.setAgenda_sync (s : State) (v : List Event) : (s.setAgenda v).sync = s.sync := rfl
@[simp] theorem State.setAgenda_rb (s : State) (v : List Event) : (s.setAgenda v).rb = s.rb := rfl
@[simp] theorem State.setAgenda_bt (s : State) (v : List Event) : (s.setAgenda v).bt = s.bt := rfl
@[simp] theorem State.setAgenda_custom (s : State) (v : List Event) : (s.setAgenda v).custom = s.custom := rfl
@[simp] theorem State.setAgenda_tx (s : State) (v : List Event) : (s.setAgenda v).tx = s.tx := rfl
@[simp] theorem State.setAgenda_trace (s : State) (v : List Event) : (s.setAgenda v).trace = s.trace := rfl
@[simp] theorem State.setAgenda_ret (s : State) (v : List Event) : (s.setAgenda v).ret = s.ret := rfl
@[simp] theorem State.setAgenda_build (s : State) (v : List Event) : (s.setAgenda v).build = s.build := rfl
@[simp] theorem State.setAgenda_agenda (s : State) (v : List Event) : (s.setAgenda v).agenda = v := rfl
@[simp] theorem State.setAgenda_mon (s : State) (v : List Event) : (s.setAgenda v).mon = s.mon := rfl
@[simp] theorem State.setAgenda_self (s : State) : s.setAgenda s.agenda = s := rfl
@[simp] theorem State.setAgenda_setAgenda (s : State) (v w : List Event) : (s.setAgenda v).setAgenda w = s.setAgenda w := rfl

/-! ### setMon -/

@[simp] theorem State.setMon_cfg (s : State) (v : Monitor) : (s.setMon v).cfg = s.cfg := rfl
@[simp] theorem State.setMon_rx (s : State) (v : Monitor) : (s.setMon v).rx = s.rx := rfl
@[simp] theorem State.setMon_sync (s : State) (v : Monitor) : (s.setMon v).sync = s.sync := rfl
@[simp] theorem State.setMon_rb (s : State) (v : Monitor) : (s.setMon v).rb = s.rb := rfl
@[simp] theorem State.setMon_bt (s : State) (v : Monitor) : (s.setMon v).bt = s.bt := rfl
@[simp] theorem State.setMon_custom (s : State) (v : Monitor) : (s.setMon v).custom = s.custom := rfl
@[simp] theorem State.setMon_tx (s : State) (v : Monitor) : (s.setMon v).tx = s.tx := rfl
@[simp] theorem State.setMon_trace (s : State) (v : Monitor) : (s.setMon v).trace = s.trace := rfl
@[simp] theorem State.setMon_ret (s : State) (v : Monitor) : (s.setMon v).ret = s.ret := rfl
@[simp] theorem State.setMon_build (s : State) (v : Monitor) : (s.setMon v).build = s.build := rfl
@[simp] theorem State.setMon_agenda (s : State) (v : Monitor) : (s.setMon v).agenda = s.agenda := rfl
@[simp] theorem State.setMon_mon (s : State) (v : Monitor) : (s.setMon v).mon = v := rfl
@[simp] theorem State.setMon_self (s : State) : s.setMon s.mon = s := rfl
@[simp] theorem State.setMon_setMon (s : State) (v w : Monitor) : (s.setMon v).setMon w = s.setMon w := rfl

/-! ### resetBlock (70_reset_and_hazards.md R260) -/

@[simp] theorem resetBlock_cfg (s : State) : (resetBlock s).cfg = s.cfg := rfl
@[simp] theorem resetBlock_rx (s : State) : (resetBlock s).rx = Rx.reset := rfl
@[simp] theorem resetBlock_sync (s : State) : (resetBlock s).sync = Sync.reset := rfl
@[simp] theorem resetBlock_rb (s : State) : (resetBlock s).rb = Ring.reset := rfl
@[simp] theorem resetBlock_bt (s : State) : (resetBlock s).bt = Timer.reset := rfl
@[simp] theorem resetBlock_custom (s : State) : (resetBlock s).custom = customReset := rfl
@[simp] theorem resetBlock_tx (s : State) : (resetBlock s).tx = Tx.reset := rfl
@[simp] theorem resetBlock_trace (s : State) : (resetBlock s).trace = s.trace := rfl
@[simp] theorem resetBlock_ret (s : State) : (resetBlock s).ret = s.ret := rfl
@[simp] theorem resetBlock_build (s : State) : (resetBlock s).build = s.build := rfl
@[simp] theorem resetBlock_agenda (s : State) : (resetBlock s).agenda = s.agenda := rfl
@[simp] theorem resetBlock_mon (s : State) : (resetBlock s).mon = s.mon := rfl

/-! ### resetOf (10_state.md R48) -/

@[simp] theorem State.resetOf_cfg (c : Config) : (State.resetOf c).cfg = c := rfl
@[simp] theorem State.resetOf_rx (c : Config) : (State.resetOf c).rx = Rx.reset := rfl
@[simp] theorem State.resetOf_sync (c : Config) : (State.resetOf c).sync = Sync.reset := rfl
@[simp] theorem State.resetOf_rb (c : Config) : (State.resetOf c).rb = Ring.reset := rfl
@[simp] theorem State.resetOf_bt (c : Config) : (State.resetOf c).bt = Timer.reset := rfl
@[simp] theorem State.resetOf_custom (c : Config) : (State.resetOf c).custom = customReset := rfl
@[simp] theorem State.resetOf_tx (c : Config) : (State.resetOf c).tx = Tx.reset := rfl
@[simp] theorem State.resetOf_trace (c : Config) : (State.resetOf c).trace = [] := rfl
@[simp] theorem State.resetOf_ret (c : Config) : (State.resetOf c).ret = .none := rfl
@[simp] theorem State.resetOf_build (c : Config) : (State.resetOf c).build = [] := rfl
@[simp] theorem State.resetOf_agenda (c : Config) : (State.resetOf c).agenda = [] := rfl
@[simp] theorem State.resetOf_mon (c : Config) : (State.resetOf c).mon = Monitor.start := rfl

end Sys2Proof.Machine
end

