-- ==== Sys2Proof/Laws/Buffer.lean ====
section
/-! SUPPORT. What PUSH and POP do to the buffer seen as the queue of its live bytes, and that they keep
its invariant (41_receive_buffer.md R120, R121, R124). -/

namespace Sys2Proof.Machine

/-- Two live slots are different slots of the ring. -/
theorem slot_ne {rd k j c : Nat} (hk : k < j) (hj : j < c + k) : (rd + k) % c ≠ (rd + j) % c := by
  intro h
  have h1 : (rd + j - (rd + k)) % c = 0 := Nat.sub_mod_eq_zero_of_mod_eq h.symm
  rw [show rd + j - (rd + k) = j - k by omega, Nat.mod_eq_of_lt (by omega)] at h1
  omega

@[simp] theorem length_liveBytes (s : State) : (liveBytes s).length = s.rb.size := by
  simp [liveBytes]

/-- The live bytes depend on the buffer and the capacity alone. -/
theorem liveBytes_congr {s t : State} (hrb : t.rb = s.rb) (hcfg : t.cfg = s.cfg) :
    liveBytes t = liveBytes s := by
  simp [liveBytes, hrb, hcfg]

theorem byteAt_congr {s t : State} (h : liveBytes t = liveBytes s) (i : Nat) :
    byteAt t i = byteAt s i := by
  simp [byteAt, h]

theorem RingInv_congr {s t : State} (hrb : t.rb = s.rb) (hcfg : t.cfg = s.cfg) (h : RingInv s) :
    RingInv t := by
  unfold RingInv at *
  rwa [hrb, hcfg]

theorem liveBytes_eq_nil {s : State} : liveBytes s = [] ↔ s.rb.size = 0 := by
  rw [← List.length_eq_zero_iff, length_liveBytes]

/-! ## PUSH -/

theorem pushByte_full {s : State} {b : Byte} (h : s.rb.size = s.cfg.capacity) :
    pushByte b s = .ok s := by
  simp [pushByte, h]

theorem pushByte_room {s : State} {b : Byte} (h : s.rb.size ≠ s.cfg.capacity)
    (hw : s.rb.wr < s.cfg.capacity) :
    pushByte b s = .ok (s.setRb
      { data := s.rb.data.write s.rb.wr b, size := s.rb.size + 1, rd := s.rb.rd,
        wr := (s.rb.wr + 1) % s.cfg.capacity }) := by
  simp [pushByte, ringWrite, h, hw]

/-- Everything PUSH can do: drop the byte, or store it in slot `rb.wr`. -/
theorem pushByte_cases {s t : State} {b : Byte} (h : pushByte b s = .ok t) :
    (s.rb.size = s.cfg.capacity ∧ t = s) ∨
    (s.rb.size ≠ s.cfg.capacity ∧ s.rb.wr < s.cfg.capacity ∧
      t = s.setRb { data := s.rb.data.write s.rb.wr b, size := s.rb.size + 1, rd := s.rb.rd,
                    wr := (s.rb.wr + 1) % s.cfg.capacity }) := by
  by_cases hf : s.rb.size = s.cfg.capacity
  · exact .inl ⟨hf, by simpa [pushByte, hf] using h.symm⟩
  · by_cases hw : s.rb.wr < s.cfg.capacity
    · rw [pushByte_room hf hw] at h
      exact .inr ⟨hf, hw, by simpa using h.symm⟩
    · simp [pushByte, ringWrite, hf, hw] at h

theorem pushByte_total {s : State} (b : Byte) (h : RingInv s) : ∃ t, pushByte b s = .ok t := by
  by_cases hf : s.rb.size = s.cfg.capacity
  · exact ⟨s, pushByte_full hf⟩
  · exact ⟨_, pushByte_room hf h.2.2.2.2.1⟩

theorem pushByte_keeps {s t : State} {b : Byte} (h : pushByte b s = .ok t) (hi : RingInv s) :
    RingInv t := by
  rcases pushByte_cases h with ⟨-, rfl⟩ | ⟨hf, hw, rfl⟩
  · exact hi
  · obtain ⟨hwf, haddr, hsz, hrd, hwr, heq⟩ := hi
    refine ⟨Memory.write_wf hwf _ _, ?_, ?_, hrd, Nat.mod_lt _ (by omega), ?_⟩
    · intro cell hc
      rcases Memory.mem_write hc with h | h
      · simpa [h] using hw
      · exact haddr cell h
    · simp only [State.setRb_rb, State.setRb_cfg]
      omega
    · simp only [State.setRb_rb, State.setRb_cfg]
      rw [heq, Nat.mod_add_mod, Nat.add_assoc]

theorem pushByte_liveBytes {s t : State} {b : Byte} (h : pushByte b s = .ok t) (hi : RingInv s) :
    liveBytes t = if ringFull s then liveBytes s else liveBytes s ++ [b] := by
  rcases pushByte_cases h with ⟨hf, rfl⟩ | ⟨hf, hw, rfl⟩
  · simp [ringFull, hf]
  · obtain ⟨hwf, haddr, hsz, hrd, hwr, heq⟩ := hi
    simp only [ringFull, hf, decide_false, Bool.false_eq_true, if_false]
    simp only [liveBytes, State.setRb_rb, State.setRb_cfg, List.range_succ, List.map_append,
      List.map_cons, List.map_nil]
    congr 1
    · refine List.map_congr_left fun k hk => ?_
      rw [List.mem_range] at hk
      exact Memory.read_write_other _ _ (by rw [heq]; exact slot_ne hk (by omega))
    · rw [← heq, Memory.read_write_same hwf]

/-! ## POP -/

theorem popByte_empty {s : State} (h : s.rb.size = 0) : popByte s = .ok (0, s) := by
  simp [popByte, h]

theorem popByte_some {s : State} (h : s.rb.size ≠ 0) (hr : s.rb.rd < s.cfg.capacity) :
    popByte s = .ok (s.rb.data.read s.rb.rd,
      s.setRb { data := s.rb.data, size := s.rb.size - 1, rd := (s.rb.rd + 1) % s.cfg.capacity,
                wr := s.rb.wr }) := by
  simp [popByte, ringRead, h, hr]

/-- Everything POP can do: answer the sentinel, or the byte in slot `rb.rd`. -/
theorem popByte_cases {s t : State} {b : Byte} (h : popByte s = .ok (b, t)) :
    (s.rb.size = 0 ∧ b = 0 ∧ t = s) ∨
    (s.rb.size ≠ 0 ∧ s.rb.rd < s.cfg.capacity ∧ b = s.rb.data.read s.rb.rd ∧
      t = s.setRb { data := s.rb.data, size := s.rb.size - 1,
                    rd := (s.rb.rd + 1) % s.cfg.capacity, wr := s.rb.wr }) := by
  by_cases h0 : s.rb.size = 0
  · rw [popByte_empty h0] at h
    simp only [Except.ok.injEq, Prod.mk.injEq] at h
    exact .inl ⟨h0, h.1.symm, h.2.symm⟩
  · by_cases hr : s.rb.rd < s.cfg.capacity
    · rw [popByte_some h0 hr] at h
      simp only [Except.ok.injEq, Prod.mk.injEq] at h
      exact .inr ⟨h0, hr, h.1.symm, h.2.symm⟩
    · simp [popByte, ringRead, h0, hr] at h

/-- What POP leaves: all but the buffer's read index and size. -/
theorem popByte_frame {s t : State} {b : Byte} (h : popByte s = .ok (b, t)) :
    t = s.setRb { data := s.rb.data, size := t.rb.size, rd := t.rb.rd, wr := s.rb.wr } := by
  rcases popByte_cases h with ⟨-, -, rfl⟩ | ⟨-, -, -, rfl⟩ <;> rfl

theorem popByte_total {s : State} (h : RingInv s) : ∃ b t, popByte s = .ok (b, t) := by
  by_cases h0 : s.rb.size = 0
  · exact ⟨_, _, popByte_empty h0⟩
  · exact ⟨_, _, popByte_some h0 h.2.2.2.1⟩

theorem popByte_keeps {s t : State} {b : Byte} (h : popByte s = .ok (b, t)) (hi : RingInv s) :
    RingInv t := by
  rcases popByte_cases h with ⟨-, -, rfl⟩ | ⟨h0, hr, -, rfl⟩
  · exact hi
  · obtain ⟨hwf, haddr, hsz, hrd, hwr, heq⟩ := hi
    refine ⟨hwf, haddr, ?_, Nat.mod_lt _ (by omega), hwr, ?_⟩
    · simp only [State.setRb_rb, State.setRb_cfg]
      omega
    · simp only [State.setRb_rb, State.setRb_cfg]
      rw [heq, Nat.mod_add_mod]
      congr 1
      omega

/-- POP seen on the queue: it answers the oldest live byte, or the sentinel, and leaves the others. -/
theorem popByte_queue {s t : State} {b : Byte} (h : popByte s = .ok (b, t)) :
    b = byteAt s 0 ∧ liveBytes t = (liveBytes s).drop 1 := by
  rcases popByte_cases h with ⟨h0, rfl, rfl⟩ | ⟨h0, hr, rfl, rfl⟩
  · have : liveBytes t = [] := liveBytes_eq_nil.2 h0
    simp [byteAt, this]
  · obtain ⟨n, hn⟩ : ∃ n, s.rb.size = n + 1 := ⟨s.rb.size - 1, by omega⟩
    have hlive : liveBytes s = s.rb.data.read s.rb.rd ::
        (List.range n).map (fun k => s.rb.data.read ((s.rb.rd + (k + 1)) % s.cfg.capacity)) := by
      simp only [liveBytes, hn, List.range_succ_eq_map, List.map_cons, List.map_map, Nat.add_zero,
        Nat.mod_eq_of_lt hr]
      rfl
    constructor
    · simp [byteAt, hlive]
    · rw [hlive]
      simp only [liveBytes, State.setRb_rb, State.setRb_cfg, hn, Nat.add_sub_cancel, List.drop_one,
        List.tail_cons, Nat.mod_add_mod]
      refine List.map_congr_left fun k _ => ?_
      congr 2
      omega

end Sys2Proof.Machine
end

