-- ==== Sys2Proof/Laws/Decoder.lean ====
section
/-! SUPPORT. What CMD_SHORT, CMD_LONG and DECODE do, on the buffer seen as a queue (43_command_decoder.md
R161, R162, R166), and what they leave. -/

namespace Sys2Proof.Machine

/-- What an operation that pops leaves: all but the buffer's read index and size, and the custom slot. -/
abbrev PopFrame (s t : State) : Prop :=
  t = (s.setRb { data := s.rb.data, size := t.rb.size, rd := t.rb.rd, wr := s.rb.wr }).setCustom
    t.custom

theorem popFrame_of_pop {s t : State} {b : Byte} (h : popByte s = .ok (b, t)) :
    PopFrame s t ∧ t.custom = s.custom := by
  rcases popByte_cases h with ⟨-, -, rfl⟩ | ⟨-, -, -, rfl⟩ <;> exact ⟨rfl, rfl⟩

theorem PopFrame.trans {s t u : State} (h1 : PopFrame s t) (h2 : PopFrame t u) : PopFrame s u := by
  exact Eq.trans h2 (by rw [h1]; rfl)

theorem PopFrame.cfg {s t : State} (h : PopFrame s t) : t.cfg = s.cfg := by rw [h]; rfl

theorem byteAt_drop {s t : State} {n : Nat} (h : liveBytes t = (liveBytes s).drop n) (i : Nat) :
    byteAt t i = byteAt s (n + i) := by
  simp [byteAt, h, List.getD_eq_getElem?_getD, List.getElem?_drop]

/-! ## CMD_SHORT -/

/-- Everything CMD_SHORT can do. -/
theorem shortCommand_cases {s t : State} {sel : Byte} {cmd : Command}
    (h : shortCommand sel s = .ok (cmd, t)) :
    cmd = commandOfShort (decodeShort sel (byteAt s 0)) ∧ liveBytes t = (liveBytes s).drop 1
      ∧ PopFrame s t ∧ t.custom = s.custom ∧ (RingInv s → RingInv t) := by
  simp only [shortCommand] at h
  split at h
  · cases h
  · rename_i b1 s1 hp
    simp only [Except.ok.injEq, Prod.mk.injEq] at h
    obtain ⟨rfl, rfl⟩ := h
    have hq := popByte_queue hp
    have hf := popFrame_of_pop hp
    exact ⟨by rw [hq.1], hq.2, hf.1, hf.2, popByte_keeps hp⟩

theorem shortCommand_total {s : State} (sel : Byte) (h : RingInv s) :
    ∃ cmd t, shortCommand sel s = .ok (cmd, t) := by
  obtain ⟨b, t, hp⟩ := popByte_total h
  exact ⟨_, t, by simp only [shortCommand, hp]; rfl⟩

/-! ## CMD_LONG -/

theorem popFour_cases {s t : State} {b1 b2 b3 b4 : Byte} (h : popFour s = .ok ((b1, b2, b3, b4), t)) :
    b1 = byteAt s 0 ∧ b2 = byteAt s 1 ∧ b3 = byteAt s 2 ∧ b4 = byteAt s 3
      ∧ liveBytes t = (liveBytes s).drop 4 ∧ PopFrame s t ∧ t.custom = s.custom
      ∧ (RingInv s → RingInv t) := by
  simp only [popFour] at h
  split at h
  · cases h
  rename_i x1 s1 h1
  split at h
  · cases h
  rename_i x2 s2 h2
  split at h
  · cases h
  rename_i x3 s3 h3
  split at h
  · cases h
  rename_i x4 s4 h4
  simp only [Except.ok.injEq, Prod.mk.injEq] at h
  obtain ⟨⟨rfl, rfl, rfl, rfl⟩, rfl⟩ := h
  have q1 := popByte_queue h1
  have q2 := popByte_queue h2
  have q3 := popByte_queue h3
  have q4 := popByte_queue h4
  have d2 : liveBytes s2 = (liveBytes s).drop 2 := by rw [q2.2, q1.2, List.drop_drop]
  have d3 : liveBytes s3 = (liveBytes s).drop 3 := by rw [q3.2, d2, List.drop_drop]
  have f1 := popFrame_of_pop h1
  have f2 := popFrame_of_pop h2
  have f3 := popFrame_of_pop h3
  have f4 := popFrame_of_pop h4
  refine ⟨q1.1, ?_, ?_, ?_, by rw [q4.2, d3, List.drop_drop],
    f1.1.trans (f2.1.trans (f3.1.trans f4.1)), by rw [f4.2, f3.2, f2.2, f1.2], fun hi => ?_⟩
  · rw [q2.1, byteAt_drop q1.2]
  · rw [q3.1, byteAt_drop d2]
  · rw [q4.1, byteAt_drop d3]
  · exact popByte_keeps h4 (popByte_keeps h3 (popByte_keeps h2 (popByte_keeps h1 hi)))

/-- Everything CMD_LONG can do. -/
theorem longCommand_cases {s t : State} {cmd : Command} (h : longCommand s = .ok (cmd, t)) :
    cmd = commandOfLong (decodeLong (byteAt s 0) (byteAt s 1) (byteAt s 2) (byteAt s 3))
      ∧ t.custom = identOfBytes (byteAt s 0) (byteAt s 1) (byteAt s 2) (byteAt s 3)
      ∧ liveBytes t = (liveBytes s).drop 4 ∧ PopFrame s t ∧ (RingInv s → RingInv t) := by
  simp only [longCommand] at h
  split at h
  · cases h
  · rename_i b1 b2 b3 b4 s1 hp
    simp only [Except.ok.injEq, Prod.mk.injEq] at h
    obtain ⟨rfl, rfl⟩ := h
    obtain ⟨rfl, rfl, rfl, rfl, hl, hf, -, hi⟩ := popFour_cases hp
    exact ⟨rfl, rfl, hl, hf.trans rfl, hi⟩

theorem longCommand_total {s : State} (h : RingInv s) : ∃ cmd t, longCommand s = .ok (cmd, t) := by
  obtain ⟨b1, s1, h1⟩ := popByte_total h
  obtain ⟨b2, s2, h2⟩ := popByte_total (popByte_keeps h1 h)
  obtain ⟨b3, s3, h3⟩ := popByte_total (popByte_keeps h2 (popByte_keeps h1 h))
  obtain ⟨b4, s4, h4⟩ := popByte_total (popByte_keeps h3 (popByte_keeps h2 (popByte_keeps h1 h)))
  exact ⟨_, _, by simp only [longCommand, popFour, h1, h2, h3, h4]; rfl⟩

/-! ## DECODE -/

/-- Everything DECODE can do: one of the two formats, by the first byte. -/
theorem decodeCommand_cases {s t : State} {cmd : Command} (h : decodeCommand s = .ok (cmd, t)) :
    (byteAt s 0 ≠ 0 ∧ cmd = commandOfShort (decodeShort (byteAt s 0) (byteAt s 1))
        ∧ liveBytes t = (liveBytes s).drop 2 ∧ t.custom = s.custom
      ∨ byteAt s 0 = 0
        ∧ cmd = commandOfLong (decodeLong (byteAt s 1) (byteAt s 2) (byteAt s 3) (byteAt s 4))
        ∧ liveBytes t = (liveBytes s).drop 5
        ∧ t.custom = identOfBytes (byteAt s 1) (byteAt s 2) (byteAt s 3) (byteAt s 4))
      ∧ PopFrame s t ∧ (RingInv s → RingInv t) := by
  simp only [decodeCommand] at h
  split at h
  · cases h
  rename_i sel s1 hp
  have hq := popByte_queue hp
  have hf := popFrame_of_pop hp
  split at h
  · rename_i h0
    obtain ⟨hc, hcust, hl, hfr, hi⟩ := longCommand_cases h
    simp only [byteAt_drop hq.2] at hc hcust
    exact ⟨.inr ⟨by rw [← hq.1, h0], hc, by rw [hl, hq.2, List.drop_drop], hcust⟩,
      hf.1.trans hfr, fun h => hi (popByte_keeps hp h)⟩
  · rename_i h0
    obtain ⟨hc, hl, hfr, hcust, hi⟩ := shortCommand_cases h
    simp only [byteAt_drop hq.2] at hc
    refine ⟨.inl ⟨by rwa [← hq.1], by rw [hc, hq.1], by rw [hl, hq.2, List.drop_drop], ?_⟩,
      hf.1.trans hfr, fun h => hi (popByte_keeps hp h)⟩
    rw [hcust, hf.2]

theorem decodeCommand_total {s : State} (h : RingInv s) :
    ∃ cmd t, decodeCommand s = .ok (cmd, t) := by
  obtain ⟨sel, s1, hp⟩ := popByte_total h
  have h1 := popByte_keeps hp h
  simp only [decodeCommand, hp]
  split
  · exact longCommand_total h1
  · exact shortCommand_total sel h1

end Sys2Proof.Machine
end

