-- ==== Sys2Proof/Laws/Transmit.lean ====
section
/-! SUPPORT. What SEND and TX_STEP do (45_frame_transmitter.md R200, R204), the shape of symbols,
patterns and frames (44_pulse_encoder.md R181 to R187, R201 to R203), and that both keep the
transmitter's invariant. -/

namespace Sys2Proof.Machine

/-! ## Shapes -/

@[simp] theorem length_pulse (c : Config) (m : Nat) : (pulse c m).length = 2 := rfl

theorem length_sbit0Segs (c : Config) : (sbit0Segs c).length = 4 := by
  unfold sbit0Segs
  split <;> rfl

theorem length_sbit1Segs (c : Config) : (sbit1Segs c).length = 4 := by
  unfold sbit1Segs
  split <;> rfl

@[simp] theorem patternBits_four (p : BitVec 4) :
    patternBits p = [p.getMsbD 0, p.getMsbD 1, p.getMsbD 2, p.getMsbD 3] := rfl

@[simp] theorem patternBits_two (p : BitVec 2) : patternBits p = [p.getMsbD 0, p.getMsbD 1] := rfl

theorem length_patLong (c : Config) (v : PV) : (patLong c v).length = 8 := by
  simp only [patLong, patternBits_four, List.flatMap_cons, List.flatMap_nil, List.length_append]
  have h : ∀ b : Bool, (if b then oneSegs c else zeroSegs c).length = 2 := by
    intro b; cases b <;> rfl
  simp [h]

theorem length_patShort (c : Config) (v : PV) : (patShort c v).length = 8 := by
  simp only [patShort, patternBits_two, List.flatMap_cons, List.flatMap_nil, List.length_append]
  have h : ∀ b : Bool, (if b then sbit1Segs c else sbit0Segs c).length = 4 := by
    intro b; cases b <;> simp [length_sbit0Segs, length_sbit1Segs]
  simp [h]

theorem length_payload (ident : Identity) (cmd : Command) : (payload ident cmd).length = 16 := by
  simp [payload]

theorem length_flatMap_const {α β : Type} (f : α → List β) (n : Nat) (l : List α)
    (h : ∀ a, (f a).length = n) : (l.flatMap f).length = n * l.length := by
  induction l with
  | nil => rfl
  | cons a l ih => simp [h, ih, Nat.mul_succ, Nat.add_comm]

theorem length_frame (c : Config) (ident : Identity) (cmd : Command) :
    (frame c ident cmd).length = 132 := by
  unfold frame
  split
  · simp [frameLong, initSegs, endGapSegs, length_flatMap_const _ 8 _ (length_patLong c),
      length_payload]
  · simp [frameShort, initSegs, endGapSegs, length_flatMap_const _ 8 _ (length_patShort c),
      length_payload]

/-- A frame starts with the high segment of Init and ends with the low one of the gap. -/
theorem frame_ends (c : Config) (ident : Identity) (cmd : Command) :
    ∃ mid, frame c ident cmd = ⟨true, c.t⟩ :: (mid ++ [⟨false, c.gapMult * c.t⟩]) := by
  have key : ∀ l : List Segment, initSegs c ++ l ++ endGapSegs c
      = ⟨true, c.t⟩ :: ((⟨false, c.initLowMult * c.t⟩ :: l ++ [⟨true, c.t⟩])
          ++ [⟨false, c.gapMult * c.t⟩]) := by
    intro l
    simp [initSegs, endGapSegs, pulse]
  unfold frame
  split
  · exact ⟨_, key _⟩
  · exact ⟨_, key _⟩

theorem length_wave (c : Config) (ident : Identity) (cmd : Command) :
    (wave c ident cmd).length = 132 * c.repeatCount := by
  simp [wave, length_frame, Nat.mul_comm]

theorem wave_eq_nil {c : Config} {ident : Identity} {cmd : Command} :
    wave c ident cmd = [] ↔ c.repeatCount = 0 := by
  rw [← List.length_eq_zero_iff, length_wave]
  omega

/-- A waveform that is not empty starts with a high segment of T and ends with a low one. -/
theorem wave_ends {c : Config} {ident : Identity} {cmd : Command} (h : c.repeatCount ≠ 0) :
    (∃ rest, wave c ident cmd = ⟨true, c.t⟩ :: rest)
      ∧ ∃ init, wave c ident cmd = init ++ [⟨false, c.gapMult * c.t⟩] := by
  obtain ⟨n, hn⟩ : ∃ n, c.repeatCount = n + 1 := ⟨c.repeatCount - 1, by omega⟩
  obtain ⟨mid, hm⟩ := frame_ends c ident cmd
  constructor
  · exact ⟨_, by rw [wave, hn, List.replicate_succ, List.flatten_cons, hm]; rfl⟩
  · refine ⟨(List.replicate n (frame c ident cmd)).flatten ++ ⟨true, c.t⟩ :: mid, ?_⟩
    rw [wave, hn, List.replicate_succ', List.flatten_append]
    simp [hm]

theorem waveOf_congr {s t : State} (hcfg : t.cfg = s.cfg) (hcust : t.custom = s.custom)
    (cmd : Command) : waveOf t cmd = waveOf s cmd := by
  simp [waveOf, hcfg, hcust]

/-! ## Durations -/

theorem patLong_dur {c : Config} {v : PV} {g : Segment} (h : g ∈ patLong c v) :
    g.dur = c.t ∨ g.dur = c.zeroLowMult * c.t ∨ g.dur = c.oneLowMult * c.t := by
  simp only [patLong, List.mem_flatMap] at h
  obtain ⟨b, -, h⟩ := h
  cases b <;> simp [oneSegs, zeroSegs, pulse] at h <;> rcases h with rfl | rfl <;> simp

theorem patShort_dur {c : Config} {v : PV} {g : Segment} (h : g ∈ patShort c v) :
    g.dur = c.t ∨ g.dur = c.shortLongLowMult * c.t := by
  simp only [patShort, List.mem_flatMap] at h
  obtain ⟨b, -, h⟩ := h
  cases b <;> simp only [sbit0Segs, sbit1Segs, Bool.false_eq_true, if_false, if_true] at h <;>
    split at h <;> simp [lateSegs, earlySegs, pulse] at h <;>
    rcases h with rfl | rfl | rfl | rfl <;> simp

theorem wellFormed_facts {c : Config} (h : c.wellFormed = true) :
    1 ≤ c.t ∧ 1 ≤ c.zeroLowMult ∧ 1 ≤ c.oneLowMult ∧ 1 ≤ c.initLowMult ∧ 1 ≤ c.gapMult
      ∧ c.zeroLowMult ≠ c.oneLowMult ∧ 1 ≤ c.capacity ∧ 1 ≤ c.idleThreshold
      ∧ c.numProfiles ≤ 256 ∧ 1 ≤ c.cyclesPerUnit
      ∧ (c.protocol = .short → 2 ≤ c.shortLongLowMult) := by
  simp only [Config.wellFormed, Bool.and_eq_true, decide_eq_true_eq] at h
  obtain ⟨⟨⟨⟨⟨⟨⟨⟨⟨⟨⟨⟨h1, h2⟩, h3⟩, h4⟩, h5⟩, h6⟩, h7⟩, h8⟩, h9⟩, h10⟩, h11⟩, h12⟩, h13⟩ := h
  refine ⟨h1, h2, h3, h4, h5, h6, h7, h8, h10, h13, fun hp => ?_⟩
  rw [hp] at h12
  simp only [Config.shortWellFormed, Bool.and_eq_true, decide_eq_true_eq] at h12
  exact h12.1.2

/-- Every segment of a waveform lasts at least one cycle. -/
theorem wave_cycles {c : Config} (hc : c.wellFormed = true) {ident : Identity} {cmd : Command}
    {g : Segment} (h : g ∈ wave c ident cmd) : 1 ≤ g.dur * c.cyclesPerUnit := by
  obtain ⟨ht, hz, ho, hi, hg, -, -, -, -, hk, hs⟩ := wellFormed_facts hc
  have key : ∀ m, 1 ≤ m → 1 ≤ m * c.t * c.cyclesPerUnit := fun m hm =>
    Nat.mul_pos (Nat.mul_pos hm ht) hk
  have kt : 1 ≤ c.t * c.cyclesPerUnit := Nat.mul_pos ht hk
  simp only [wave, List.mem_flatten, List.mem_replicate] at h
  obtain ⟨f, ⟨-, rfl⟩, h⟩ := h
  unfold frame at h
  split at h
  · simp only [frameLong, List.mem_append, List.mem_flatMap] at h
    rcases h with (h | ⟨v, -, h⟩) | h
    · simp only [initSegs, pulse, List.mem_cons, List.not_mem_nil, or_false] at h
      rcases h with rfl | rfl
      · exact kt
      · exact key _ hi
    · rcases patLong_dur h with h | h | h <;> rw [h]
      · exact kt
      · exact key _ hz
      · exact key _ ho
    · simp only [endGapSegs, pulse, List.mem_cons, List.not_mem_nil, or_false] at h
      rcases h with rfl | rfl
      · exact kt
      · exact key _ hg
  · rename_i hp
    simp only [frameShort, List.mem_append, List.mem_flatMap] at h
    rcases h with (h | ⟨v, -, h⟩) | h
    · simp only [initSegs, pulse, List.mem_cons, List.not_mem_nil, or_false] at h
      rcases h with rfl | rfl
      · exact kt
      · exact key _ hi
    · rcases patShort_dur h with h | h <;> rw [h]
      · exact kt
      · exact key _ (by have := hs hp; omega)
    · simp only [endGapSegs, pulse, List.mem_cons, List.not_mem_nil, or_false] at h
      rcases h with rfl | rfl
      · exact kt
      · exact key _ hg

/-! ## SEND -/

/-- Everything SEND can do: nothing, or start the command's whole waveform. -/
theorem sendCommand_cases (cmd : Command) (s : State) :
    ((selectorOutOfRange s.cfg cmd = true ∨ waveOf s cmd = []) ∧ sendCommand cmd s = s) ∨
    (selectorOutOfRange s.cfg cmd = false ∧ ∃ seg rest, waveOf s cmd = seg :: rest ∧
      sendCommand cmd s = s.setTx
        { active := true, cmd := cmd, wave := seg :: rest, idx := 0,
          cnt := seg.dur * s.cfg.cyclesPerUnit }) := by
  unfold sendCommand
  split
  · exact .inl ⟨.inl ‹_›, rfl⟩
  · rename_i h
    split
    · exact .inl ⟨.inr ‹_›, rfl⟩
    · rename_i seg rest hw
      exact .inr ⟨by simpa using h, seg, rest, hw, rfl⟩

/-- What SEND leaves: all but the transmitter. -/
theorem sendCommand_frame (cmd : Command) (s : State) :
    sendCommand cmd s = s.setTx (sendCommand cmd s).tx := by
  rcases sendCommand_cases cmd s with ⟨-, h⟩ | ⟨-, seg, rest, -, h⟩ <;> rw [h] <;> rfl

/-- SEND from a state whose transmitter meets its invariant, or that starts a waveform, meets it. -/
theorem sendCommand_keeps {cmd : Command} {s : State} (hc : s.cfg.wellFormed = true)
    (h : TxInv s ∨ (selectorOutOfRange s.cfg cmd = false ∧ waveOf s cmd ≠ [])) :
    TxInv (sendCommand cmd s) := by
  rcases sendCommand_cases cmd s with ⟨h1, heq⟩ | ⟨h1, seg, rest, hw, heq⟩
  · rw [heq]
    rcases h with h | ⟨h2, h3⟩
    · exact h
    · rcases h1 with h1 | h1
      · simp [h1] at h2
      · exact absurd h1 h3
  · rw [heq]
    have hmem : seg ∈ waveOf s cmd := by rw [hw]; exact List.mem_cons_self
    refine ⟨fun h => by simp at h, fun _ => ⟨h1, by simp, ?_, ?_, ?_⟩⟩
    · have hwave : ∀ tx, waveOf (s.setTx tx) cmd = waveOf s cmd := fun _ => waveOf_congr rfl rfl cmd
      simp [hwave, hw]
    · exact wave_cycles hc hmem
    · simp [headDur]

/-! ## TX_STEP -/

/-- Everything TX_STEP can do: nothing without a send, or emit the head segment. -/
theorem stepTx_cases {s t : State} (h : stepTx s = .ok t) :
    (s.tx.active = false ∧ t = s) ∨
    (s.tx.active = true ∧ ∃ seg rest, s.tx.wave = seg :: rest ∧
      t = (s.setTx (txAfter s.cfg s.tx rest)).setTrace (s.trace ++ [seg])) := by
  unfold stepTx at h
  split at h
  · rename_i ha
    split at h
    · cases h
    · rename_i seg rest hw
      exact .inr ⟨ha, seg, rest, hw, by simpa using h.symm⟩
  · rename_i ha
    exact .inl ⟨by simpa using ha, by simpa using h.symm⟩

@[simp] theorem txAfter_cmd (c : Config) (tx : Tx) (rest : List Segment) :
    (txAfter c tx rest).cmd = tx.cmd := by cases rest <;> rfl

@[simp] theorem txAfter_wave (c : Config) (tx : Tx) (rest : List Segment) :
    (txAfter c tx rest).wave = rest := by cases rest <;> rfl

@[simp] theorem txAfter_active (c : Config) (tx : Tx) (rest : List Segment) (h : tx.active = true) :
    (txAfter c tx rest).active = !rest.isEmpty := by cases rest <;> simp [txAfter, h]

theorem stepTx_total {s : State} (h : TxInv s) : ∃ t, stepTx s = .ok t := by
  unfold stepTx
  split
  · rename_i ha
    obtain ⟨-, hne, -⟩ := h.2 ha
    split
    · rename_i hw
      exact absurd hw hne
    · exact ⟨_, rfl⟩
  · exact ⟨_, rfl⟩

/-- TX_STEP keeps the transmitter's invariant. -/
theorem stepTx_keeps {s t : State} (hc : s.cfg.wellFormed = true) (h : stepTx s = .ok t)
    (hi : TxInv s) : TxInv t := by
  rcases stepTx_cases h with ⟨-, rfl⟩ | ⟨ha, seg, rest, hw, rfl⟩
  · exact hi
  · obtain ⟨hsel, hne, hdrop, -, -⟩ := hi.2 ha
    have hwave : ∀ tx tr, waveOf ((s.setTx tx).setTrace tr) s.tx.cmd = waveOf s s.tx.cmd :=
      fun _ _ => waveOf_congr rfl rfl _
    cases rest with
    | nil => exact ⟨fun _ => rfl, fun h => by simp [txAfter] at h⟩
    | cons g rest =>
      have hmem : g ∈ waveOf s s.tx.cmd :=
        List.mem_of_mem_drop (i := s.tx.idx) (by rw [← hdrop, hw]; simp)
      refine ⟨fun h => by simp [txAfter, ha] at h, fun _ => ⟨hsel, by simp, ?_, ?_, ?_⟩⟩
      · simp only [State.setTrace_tx, State.setTx_tx, txAfter_cmd, hwave]
        simp only [txAfter, ← List.drop_drop, ← hdrop, hw, List.drop_one, List.tail_cons]
      · exact wave_cycles hc hmem
      · simp [headDur, txAfter]

end Sys2Proof.Machine
end

