-- ==== Sys2Proof/Laws/Handlers.lean ====
section
/-! SUPPORT. What the event handlers do (42_burst_timer.md R140 to R143, 40_serial_receiver.md R100), and
how `exec` answers with them. -/

namespace Sys2Proof.Machine

/-! ## Outcomes -/

theorem settle_next {x : Except Fault State} {t : State} : settle x = .next t ↔ x = .ok t := by
  cases x <;> simp [settle]

theorem settle_refused {x : Except Fault State} {r : Refusal} : settle x ≠ .refused r := by
  cases x <;> simp [settle]

theorem settleWith_next {α : Type} {wrap : α → Ret} {x : Except Fault (α × State)} {t : State} :
    settleWith wrap x = .next t ↔ ∃ v s, x = .ok (v, s) ∧ t = s.setRet (wrap v) := by
  rcases x with f | ⟨v, s⟩
  · simp [settleWith]
  · simp only [settleWith, Host.Outcome.next.injEq, Except.ok.injEq, Prod.mk.injEq]
    constructor
    · rintro rfl
      exact ⟨v, s, ⟨rfl, rfl⟩, rfl⟩
    · rintro ⟨v', s', ⟨rfl, rfl⟩, rfl⟩
      rfl

/-! ## ON_BYTE -/

/-- Everything ON_BYTE can do: PUSH, then the timer restarts. -/
theorem onByteOp_cases {s t : State} {b : Byte} (h : onByteOp b s = .ok t) :
    ∃ u, pushByte b s = .ok u ∧ t = u.setBt { armed := true, elapsed := 0 } := by
  simp only [onByteOp] at h
  split at h
  · cases h
  · exact ⟨_, ‹_›, by simpa [restartTimer] using h.symm⟩

/-- What ON_BYTE leaves: all but the buffer and the timer. -/
theorem onByteOp_frame {s t : State} {b : Byte} (h : onByteOp b s = .ok t) :
    t = (s.setRb t.rb).setBt { armed := true, elapsed := 0 } := by
  obtain ⟨u, hp, rfl⟩ := onByteOp_cases h
  rcases pushByte_cases hp with ⟨-, rfl⟩ | ⟨-, -, rfl⟩ <;> rfl

theorem onByteOp_total {s : State} (b : Byte) (h : RingInv s) : ∃ t, onByteOp b s = .ok t := by
  obtain ⟨u, hu⟩ := pushByte_total b h
  exact ⟨_, by simp only [onByteOp, hu]; rfl⟩

theorem onByteOp_liveBytes {s t : State} {b : Byte} (h : onByteOp b s = .ok t) (hi : RingInv s) :
    liveBytes t = if ringFull s then liveBytes s else liveBytes s ++ [b] := by
  obtain ⟨u, hp, rfl⟩ := onByteOp_cases h
  exact (liveBytes_congr (s := u) rfl rfl).trans (pushByte_liveBytes hp hi)

theorem onByteOp_keeps {s t : State} {b : Byte} (h : onByteOp b s = .ok t) (hi : RingInv s) :
    RingInv t := by
  obtain ⟨u, hp, rfl⟩ := onByteOp_cases h
  exact RingInv_congr (s := u) rfl rfl (pushByte_keeps hp hi)

/-! ## FIRE and ON_TICK -/

/-- Everything FIRE can do: the timer off, DECODE, SEND. -/
theorem fireOp_cases {s t : State} (h : fireOp s = .ok t) :
    ∃ cmd u, decodeCommand (disarmTimer s) = .ok (cmd, u) ∧ t = sendCommand cmd u := by
  simp only [fireOp] at h
  split at h
  · cases h
  · exact ⟨_, _, ‹_›, by simpa using h.symm⟩

theorem fireOp_total {s : State} (h : RingInv s) : ∃ t, fireOp s = .ok t := by
  obtain ⟨cmd, u, hd⟩ := decodeCommand_total (s := disarmTimer s) h
  exact ⟨_, by simp only [fireOp, hd]; rfl⟩

/-- What FIRE leaves: all but the buffer's read index and size, the timer, the custom slot and the
transmitter. -/
theorem fireOp_frame {s t : State} (h : fireOp s = .ok t) :
    t = ((((s.setRb { data := s.rb.data, size := t.rb.size, rd := t.rb.rd, wr := s.rb.wr }).setBt
      { armed := false, elapsed := 0 }).setCustom t.custom).setTx t.tx) := by
  obtain ⟨cmd, u, hd, rfl⟩ := fireOp_cases h
  obtain ⟨-, hf, -⟩ := decodeCommand_cases hd
  rw [sendCommand_frame]
  generalize (sendCommand cmd u).tx = tx
  conv_lhs => rw [hf]
  rfl

/-- FIRE does not look at the timer. -/
theorem fireOp_setBt (s : State) (v : Timer) : fireOp (s.setBt v) = fireOp s := rfl

/-- Everything ON_TICK can do: nothing, fire, or count. -/
theorem onTickOp_cases {s t : State} (h : onTickOp s = .ok t) :
    ((s.bt.armed = false ∨ s.tx.active = true) ∧ t = s) ∨
    (s.bt.armed = true ∧ s.tx.active = false ∧ s.bt.elapsed + 1 = s.cfg.idleThreshold ∧
      fireOp s = .ok t) ∨
    (s.bt.armed = true ∧ s.tx.active = false ∧ s.bt.elapsed + 1 ≠ s.cfg.idleThreshold ∧
      t = s.setBt { armed := s.bt.armed, elapsed := s.bt.elapsed + 1 }) := by
  unfold onTickOp at h
  split at h
  · rename_i hg
    refine .inl ⟨?_, by simpa using h.symm⟩
    simpa using hg
  · rename_i hg
    simp only [Bool.or_eq_true, Bool.not_eq_true', not_or, Bool.not_eq_false,
      Bool.not_eq_true] at hg
    split at h
    · exact .inr (.inl ⟨hg.1, hg.2, ‹_›, h⟩)
    · exact .inr (.inr ⟨hg.1, hg.2, ‹_›, by simpa using h.symm⟩)

theorem onTickOp_total {s : State} (h : RingInv s) : ∃ t, onTickOp s = .ok t := by
  unfold onTickOp
  split
  · exact ⟨_, rfl⟩
  · split
    · exact fireOp_total h
    · exact ⟨_, rfl⟩

theorem onTickOp_active {s : State} (h : s.tx.active = true) : onTickOp s = .ok s := by
  simp [onTickOp, h]

/-! ## SAMPLE -/

/-- The shift as the arithmetic of R100. -/
theorem shiftIn_eq (shift : Byte) (bit : Bool) :
    shiftIn shift bit = BitVec.ofNat 8 ((shift.toNat * 2 + bit.toNat) % 256) := by
  revert shift bit
  decide

/-- Everything SAMPLE can do: shift and count, or complete a byte. -/
theorem sampleOp_cases {s t : State} {bit : Bool} (h : sampleOp bit s = .ok t) :
    (s.rx.count ≠ 7 ∧
      t = s.setRx { shift := shiftIn s.rx.shift bit, count := s.rx.count + 1 }) ∨
    (s.rx.count = 7 ∧
      onByteOp (shiftIn s.rx.shift bit)
        (s.setRx { shift := shiftIn s.rx.shift bit, count := 0 }) = .ok t) := by
  simp only [sampleOp, byteDoneOp] at h
  split at h
  · exact .inr ⟨‹_›, h⟩
  · exact .inl ⟨‹_›, by simpa using h.symm⟩

theorem sampleOp_total {s : State} (bit : Bool) (h : RingInv s) : ∃ t, sampleOp bit s = .ok t := by
  simp only [sampleOp, byteDoneOp]
  split
  · exact onByteOp_total _ h
  · exact ⟨_, rfl⟩

/-- What SAMPLE leaves: all but the receiver, the buffer and the timer. -/
theorem sampleOp_frame {s t : State} {bit : Bool} (h : sampleOp bit s = .ok t) :
    t = ((s.setRx { shift := shiftIn s.rx.shift bit, count := s.rx.count + 1 }).setRb t.rb).setBt
      t.bt := by
  rcases sampleOp_cases h with ⟨-, rfl⟩ | ⟨h7, h⟩
  · rfl
  · have hf := onByteOp_frame h
    rw [h7]
    conv_lhs => rw [hf]
    rw [show t.bt = { armed := true, elapsed := 0 } by rw [hf]; rfl]
    rfl

end Sys2Proof.Machine
end

