-- ==== Sys2Proof/Laws/Cycle.lean ====
section
/-! SUPPORT. Runs of operations and what one cycle of `clk` can do (42_burst_timer.md R144,
45_frame_transmitter.md R205). -/

namespace Sys2Proof.Machine

@[simp] theorem runOps_nil (s : State) : runOps [] s = .next s := rfl

theorem runOps_cons_next {i : Instr} {is : List Instr} {s t : State} :
    runOps (i :: is) s = .next t ↔ ∃ u, exec i s = .next u ∧ runOps is u = .next t := by
  simp only [runOps]
  cases exec i s <;> simp

theorem runOps_append_next {is js : List Instr} {s t : State} :
    runOps (is ++ js) s = .next t ↔ ∃ u, runOps is s = .next u ∧ runOps js u = .next t := by
  induction is generalizing s with
  | nil => simp
  | cons i is ih =>
    simp only [List.cons_append, runOps_cons_next, ih]
    constructor
    · rintro ⟨u, hu, v, hv, ht⟩
      exact ⟨v, ⟨u, hu, hv⟩, ht⟩
    · rintro ⟨v, ⟨u, hu, hv⟩, ht⟩
      exact ⟨u, hu, v, hv, ht⟩

theorem runOps_singleton (i : Instr) (s : State) : runOps [i] s = exec i s := by
  simp only [runOps]
  cases exec i s <;> rfl

/-- A run of operations whose first one answers a next state goes on from there. -/
theorem runOps_cons_of {i : Instr} {s u : State} (h : exec i s = .next u) (is : List Instr) :
    runOps (i :: is) s = runOps is u := by
  simp [runOps, h]

/-- The state in which a cycle's operations start: the pins' history is brought up to date. -/
abbrev cycleStart (p : Pins) (s : State) : State :=
  s.setMon (nextMonitor s.cfg.sampleEdge s.mon p)

/-- Everything a cycle with `rst` = 1 can do. -/
theorem cycle_reset {p : Pins} {s : State} (hr : p.rst = true)
    (hk : timingKept s.cfg.sampleEdge s.mon p = true) :
    cycle p s = .next (resetBlock (cycleStart p s)) := by
  simp [cycle, cycleOps, hk, hr, decodePort, portWord, runOps, exec, execReset]

/-- Everything a cycle with `rst` = 0 that answers a next state can do: the receiver, the tick, the end
of a segment, then the counter and the synchronizer. -/
theorem cycle_cases {p : Pins} {s t : State} (hr : p.rst = false) (h : cycle p s = .next t) :
    timingKept s.cfg.sampleEdge s.mon p = true ∧
    ∃ s1 s2 s3,
      runOps (receiverOps (portWord s p)) (cycleStart p s) = .next s1 ∧
      runOps (if p.tick && !byteEvent (portWord s p) then [.onTick] else []) s1 = .next s2 ∧
      runOps (if (portWord s p).segEnd then [.txStep] else []) s2 = .next s3 ∧
      t = (countCycle s s3).setSync (nextSync s.sync p) := by
  unfold cycle at h
  split at h
  · rename_i hk
    refine ⟨hk, ?_⟩
    simp only [cycleOps, hr, Bool.false_eq_true, if_false] at h
    have hw : portWord (cycleStart p s) p = portWord s p := rfl
    change finishCycle (cycleStart p s) p (runOps (decodePort (portWord (cycleStart p s) p)) (cycleStart p s))
      = .next t at h
    rw [hw] at h
    cases hrun : runOps (decodePort (portWord s p)) (cycleStart p s) with
    | fault f => simp [hrun, finishCycle] at h
    | refused r => simp [hrun, finishCycle] at h
    | next s3 =>
      simp only [hrun, finishCycle, Host.Outcome.next.injEq] at h
      have hd : decodePort (portWord s p) = receiverOps (portWord s p)
          ++ (if p.tick && !byteEvent (portWord s p) then [.onTick] else [])
          ++ (if (portWord s p).segEnd then [.txStep] else []) := by
        simp [decodePort, portWord, hr]
      rw [hd, runOps_append_next] at hrun
      obtain ⟨s2, h12, h23⟩ := hrun
      rw [runOps_append_next] at h12
      obtain ⟨s1, h1, h2⟩ := h12
      exact ⟨s1, s2, s3, h1, h2, h23, h.symm⟩
  · cases h

/-- The receiver's part of a cycle: nothing, DESELECT, or SAMPLE of the synchronized data. -/
theorem receiver_cases {w : PortWord} {s t : State} (h : runOps (receiverOps w) s = .next t) :
    (w.ssn = true ∧ t = s.setRx { shift := 0, count := 0 }) ∨
    (w.ssn = false ∧ w.edge = true ∧ sampleOp w.sdi s = .ok t) ∨
    (w.ssn = false ∧ w.edge = false ∧ t = s) := by
  unfold receiverOps at h
  split at h
  · rw [runOps_singleton] at h
    exact .inl ⟨‹_›, by simpa [exec, execDeselect, deselectOp] using h.symm⟩
  · split at h
    · rw [runOps_singleton] at h
      exact .inr (.inl ⟨by simpa using ‹¬ w.ssn = true›, ‹_›,
        by simpa [exec, execSample, settle_next] using h⟩)
    · exact .inr (.inr ⟨by simpa using ‹¬ w.ssn = true›, by simpa using ‹¬ w.edge = true›,
        by simpa using h.symm⟩)

/-- The tick's part of a cycle. -/
theorem tick_cases {b : Bool} {s t : State} (h : runOps (if b then [.onTick] else []) s = .next t) :
    (b = true ∧ onTickOp s = .ok t) ∨ (b = false ∧ t = s) := by
  split at h
  · rw [runOps_singleton] at h
    exact .inl ⟨‹_›, by simpa [exec, execOnTick, settle_next] using h⟩
  · exact .inr ⟨by simpa using ‹¬ b = true›, by simpa using h.symm⟩

/-- The transmitter's part of a cycle. -/
theorem segEnd_cases {b : Bool} {s t : State} (h : runOps (if b then [.txStep] else []) s = .next t) :
    (b = true ∧ stepTx s = .ok t) ∨ (b = false ∧ t = s) := by
  split at h
  · rw [runOps_singleton] at h
    exact .inl ⟨‹_›, by simpa [exec, execTxStep, settle_next] using h⟩
  · exact .inr ⟨by simpa using ‹¬ b = true›, by simpa using h.symm⟩

/-- What the receiver's part of a cycle leaves: all but the receiver, the buffer and the timer. -/
theorem receiver_frame {w : PortWord} {s t : State} (h : runOps (receiverOps w) s = .next t) :
    t = ((s.setRx t.rx).setRb t.rb).setBt t.bt := by
  rcases receiver_cases h with ⟨-, rfl⟩ | ⟨-, -, h⟩ | ⟨-, -, rfl⟩
  · rfl
  · have hf := sampleOp_frame h
    rw [show t.rx = { shift := shiftIn s.rx.shift w.sdi, count := s.rx.count + 1 } by rw [hf]; rfl]
    exact hf
  · rfl

end Sys2Proof.Machine
end

