-- ==== Sys2Proof/Laws/PerInstr.lean ====
section
/-! SUPPORT. Statements made for each operation as syntax. `PortOps`: the operations that an agent of the
block produces (10_state.md R30) are exactly those the port encodes (30_encoding.md R92), and the
encoding stands for that operation alone. -/

namespace Sys2Proof.Laws.PortOps

open Sys2Proof.Machine

/-- The operation is an agent's exactly when the port encodes it, and then its port word decodes to it. -/
def Statement (i : Instr) : Prop :=
  agentOp i = (encodePort i).isSome ∧ ∀ w, encodePort i = some w → decodePort w = [i]

theorem sample (bit : Bool) : Statement (.sample bit) := ⟨rfl, fun _ h => by cases h; rfl⟩
theorem byteDone (b : Byte) : Statement (.byteDone b) := ⟨rfl, fun _ h => by cases h⟩
theorem deselect : Statement .deselect := ⟨rfl, fun _ h => by cases h; rfl⟩
theorem push (b : Byte) : Statement (.push b) := ⟨rfl, fun _ h => by cases h⟩
theorem pop : Statement .pop := ⟨rfl, fun _ h => by cases h⟩
theorem isEmpty : Statement .isEmpty := ⟨rfl, fun _ h => by cases h⟩
theorem isFull : Statement .isFull := ⟨rfl, fun _ h => by cases h⟩
theorem onByte (b : Byte) : Statement (.onByte b) := ⟨rfl, fun _ h => by cases h⟩
theorem btRestart : Statement .btRestart := ⟨rfl, fun _ h => by cases h⟩
theorem onTick : Statement .onTick := ⟨rfl, fun _ h => by cases h; rfl⟩
theorem fire : Statement .fire := ⟨rfl, fun _ h => by cases h⟩
theorem decode : Statement .decode := ⟨rfl, fun _ h => by cases h⟩
theorem cmdShort (sel : Byte) : Statement (.cmdShort sel) := ⟨rfl, fun _ h => by cases h⟩
theorem cmdLong : Statement .cmdLong := ⟨rfl, fun _ h => by cases h⟩
theorem emitZero : Statement .emitZero := ⟨rfl, fun _ h => by cases h⟩
theorem emitOne : Statement .emitOne := ⟨rfl, fun _ h => by cases h⟩
theorem emitInit : Statement .emitInit := ⟨rfl, fun _ h => by cases h⟩
theorem emitEndGap : Statement .emitEndGap := ⟨rfl, fun _ h => by cases h⟩
theorem emitSbit0 : Statement .emitSbit0 := ⟨rfl, fun _ h => by cases h⟩
theorem emitSbit1 : Statement .emitSbit1 := ⟨rfl, fun _ h => by cases h⟩
theorem send (cmd : Command) : Statement (.send cmd) := ⟨rfl, fun _ h => by cases h⟩
theorem txStep : Statement .txStep := ⟨rfl, fun _ h => by cases h; rfl⟩
theorem reset : Statement .reset := ⟨rfl, fun _ h => by cases h; rfl⟩

end Sys2Proof.Laws.PortOps
end

