-- ==== Sys2Proof/Tests/Slice0.lean ====
section
/-! SUPPORT. Tests of one step or one decoding each, their expected results taken from
spec/95_test_vectors.md and from the rules by hand; and, for every statement with hypotheses in
Certificates/Slice0/Obligations.lean, states and operands that meet them. -/

namespace Sys2Proof.Tests

open Sys2Proof.Machine

set_option maxRecDepth 100000

/-! ## Small states -/

/-- What an operation leaves, when it answers a next state. -/
def leaves {α : Type} (i : Instr) (s : State) (view : State → α) : Option α :=
  match exec i s with
  | .next t => some (view t)
  | .fault _ => none
  | .refused _ => none

/-- The outcome is a next state. -/
def runs : Host.Outcome State Fault Refusal → Bool
  | .next _ => true
  | .fault _ => false
  | .refused _ => false

theorem exists_of_runs {o : Host.Outcome State Fault Refusal} (h : runs o = true) :
    ∃ t, o = .next t := by
  cases o with
  | next t => exact ⟨t, rfl⟩
  | fault f => cases h
  | refused r => cases h

/-- The ring of vectors written `[live bytes] (size, rd, wr)`. -/
def ringView (s : State) : List Byte × Nat × Nat × Nat := (liveBytes s, s.rb.size, s.rb.rd, s.rb.wr)

/-- A command as the vectors write it: `{sel, group, device, state}`. -/
def cmdOf (sel : Byte) (group device state : PV) : Command :=
  { sel := sel, state := state, group := group, device := device }

/-- Reset in another configuration. -/
def inConfig (f : Config → Config) : State := State.resetOf (f Config.tc)

/-- Reset with the given bytes in the buffer from slot 0. -/
def holding (bytes : List Byte) : State := State.reset.setRb (Ring.ofBytes 5 bytes)

/-- `[c]` at (1, 2, 3): vector RB-2 after `Pop b`. -/
def ringAt2 : State :=
  State.reset.setRb { data := [(0, 0x0A), (1, 0x0B), (2, 0x0C)], size := 1, rd := 2, wr := 3 }

/-- A full buffer that wraps: `[c, d, e, f, g]` at (5, 2, 2), vector RB-2. -/
def ringWrapped : State :=
  State.reset.setRb
    { data := [(0, 0x0F), (1, 0x10), (2, 0x0C), (3, 0x0D), (4, 0x0E)], size := 5, rd := 2, wr := 2 }

/-- The timer at `(armed, elapsed)`. -/
def timerAt (armed : Bool) (elapsed : Nat) (s : State) : State :=
  s.setBt { armed := armed, elapsed := elapsed }

/-- A send of profile 1 at segment `idx` of its waveform with `cnt` cycles left in it. -/
def sendingAt (idx cnt : Nat) (s : State) : State :=
  s.setTx { active := true, cmd := cmdOf 1 2 1 3, wave := (waveOf s (cmdOf 1 2 1 3)).drop idx,
            idx := idx, cnt := cnt }

/-- The configuration of the cycle vectors (95_test_vectors.md 2.9): T = 1, K = 2, TH = 2. -/
def cycleCfg : Config := { Config.tc with t := 1, idleThreshold := 2 }

/-- The configuration of vector FT-6. -/
def shortCfg : Config := { Config.tc with protocol := .short, shortOneLongGapFirst := some true }

/-- The pins at rest, deselected. -/
def rest : Pins := { rst := false, sclk := false, sdi := false, ssn := true, tick := false }

/-- A state with the given agenda. -/
def pending (events : List Event) (s : State) : State := s.setAgenda events

/-! ## Well-formedness refuses each ill-formed term -/

theorem test_selector_zero_refused : (Instr.cmdShort 0).wellFormed = false := by decide
theorem test_short_form_selector_zero_refused :
    ({ sel := 0, rsv := 0, group := 1, device := 2, state := 3 } : ShortForm).wellFormed = false := by
  decide
theorem test_tc_wellFormed : Config.tc.wellFormed = true := by decide
theorem test_shortCfg_wellFormed : shortCfg.wellFormed = true := by decide
theorem test_t_zero_refused : ({ Config.tc with t := 0 }).wellFormed = false := by decide
theorem test_zeroLowMult_zero_refused : ({ Config.tc with zeroLowMult := 0 }).wellFormed = false := by
  decide
theorem test_oneLowMult_zero_refused : ({ Config.tc with oneLowMult := 0 }).wellFormed = false := by
  decide
theorem test_initLowMult_zero_refused : ({ Config.tc with initLowMult := 0 }).wellFormed = false := by
  decide
theorem test_gapMult_zero_refused : ({ Config.tc with gapMult := 0 }).wellFormed = false := by decide
theorem test_equal_mults_refused : ({ Config.tc with zeroLowMult := 5 }).wellFormed = false := by decide
theorem test_capacity_zero_refused : ({ Config.tc with capacity := 0 }).wellFormed = false := by decide
theorem test_threshold_zero_refused : ({ Config.tc with idleThreshold := 0 }).wellFormed = false := by
  decide
theorem test_256_profiles_accepted :
    ({ Config.tc with profiles := List.replicate 255 Config.tcProfile }).wellFormed = true := by decide
theorem test_257_profiles_refused :
    ({ Config.tc with profiles := List.replicate 256 Config.tcProfile }).wellFormed = false := by decide
theorem test_long_table_repeats_refused :
    ({ Config.tc with symbolTableLong := #v[5, 6, 9, 5] }).wellFormed = false := by decide
theorem test_cyclesPerUnit_zero_refused : ({ Config.tc with cyclesPerUnit := 0 }).wellFormed = false := by
  decide
theorem test_short_table_repeats_refused :
    ({ shortCfg with symbolTableShort := #v[0, 1, 1, 3] }).wellFormed = false := by decide
theorem test_short_low_mult_one_refused :
    ({ shortCfg with shortLongLowMult := 1 }).wellFormed = false := by decide
theorem test_short_gap_first_missing_refused :
    ({ shortCfg with shortOneLongGapFirst := none }).wellFormed = false := by decide
theorem test_step_refuses_ill_formed :
    step (inConfig (fun c => { c with capacity := 0 })) = .refused .illFormedConfig
      ∧ step (pending [.op (.cmdShort 0)] State.reset) = .refused .illFormedOperation := ⟨rfl, rfl⟩

/-! ## Decoding: words written out bit by bit from the encodings -/

/-- CMD_SHORT: `SSSSSSSSxxggddss`, vector S1, and DEC-3 with the reserved bits 11. -/
theorem test_decode_cmdShort :
    decodeTableWord 16 0b0000000100100111 = some (.cmdShort 1)
      ∧ decodeTableWord 16 0b1111111111100111 = some (.cmdShort 0xFF)
      ∧ decodeShort 0b00000001 0b11100111
          = { sel := 1, rsv := 3, group := 2, device := 1, state := 3 } := by decide

/-- CMD_LONG: `00000000` and 26 identity bits, then `ggddss`, vector S2. -/
theorem test_decode_cmdLong :
    decodeTableWord 40 0b0000000010010011011010011100011001100111 = some .cmdLong
      ∧ decodeLong 0b10010011 0b01101001 0b11000110 0b01100111
          = { ident := #v[2, 1, 0, 3, 1, 2, 2, 1, 3, 0, 1, 2, 1], group := 2, device := 1,
              state := 3 } := by decide

/-- DEC-7 and DEC-10: the identity slots of other bytes. -/
theorem test_decode_identity :
    (decodeLong 0xFF 0x55 0 0).ident = #v[3, 3, 3, 3, 1, 1, 1, 1, 0, 0, 0, 0, 0]
      ∧ (decodeLong 0xE4 0xE4 0xE4 0xE4).ident = Config.tcProfile := by decide

/-- The port events of a cycle (R92): SAMPLE, DESELECT, ON_TICK, TX_STEP, RESET. -/
theorem test_decode_port :
    decodePort ⟨false, false, true, true, false, false, false⟩ = [.sample true]
      ∧ decodePort ⟨false, true, true, true, true, false, false⟩ = [.deselect]
      ∧ decodePort ⟨false, false, false, false, false, true, false⟩ = [.onTick]
      ∧ decodePort ⟨false, false, false, false, false, false, true⟩ = [.txStep]
      ∧ decodePort ⟨true, false, true, true, true, true, true⟩ = [.reset] := by decide

/-- The eighth SAMPLE wins over a tick (R144); deselected, no byte completes and the tick acts. -/
theorem test_decode_byte_wins :
    decodePort ⟨false, false, true, false, true, true, true⟩ = [.sample false, .txStep]
      ∧ decodePort ⟨false, true, true, false, true, true, true⟩ = [.deselect, .onTick, .txStep] := by
  decide

/-- The output symbols (R88). -/
theorem test_decode_symbols :
    decode (.patternBit .long false) = [.emitZero] ∧ decode (.patternBit .long true) = [.emitOne]
      ∧ decode (.patternBit .short false) = [.emitSbit0]
      ∧ decode (.patternBit .short true) = [.emitSbit1]
      ∧ decode .frameStart = [.emitInit] ∧ decode .frameEnd = [.emitEndGap] := by decide

/-- The encoder against the bytes of programs P1 and P2. -/
theorem test_encode_bursts :
    encodeShort { sel := 1, rsv := 0, group := 2, device := 1, state := 3 } = [0x01, 0x27]
      ∧ encodeLong { ident := #v[2, 1, 0, 3, 1, 2, 2, 1, 3, 0, 1, 2, 1], group := 2, device := 1,
                     state := 3 } = [0x00, 0x93, 0x69, 0xC6, 0x67] := by decide

/-- The words of the opcode table run as the first operation after reset. -/
theorem test_withFetchWord_runs :
    runs (step (State.reset.withFetchWord 16 0x0127)) = true
      ∧ runs (step (State.reset.withFetchWord 40 0x009369C667)) = true := by decide

/-! ## Serial receiver -/

/-- SR-5: the first sample from reset. -/
theorem test_sample_first :
    leaves (.sample true) State.reset (fun t => (t.rx, t.rb.size))
      = some ({ shift := 0x01, count := 1 }, 0) := by decide

/-- SR-1: the eighth sample of 0x27. -/
theorem test_sample_eighth :
    leaves (.sample true) (State.reset.setRx { shift := 0x13, count := 7 })
        (fun t => (t.rx.count, ringView t, t.bt))
      = some (0, ([0x27], 1, 0, 1), { armed := true, elapsed := 0 }) := by decide

/-- SR-4: a byte during a send. -/
theorem test_byteDone_during_send :
    leaves (.byteDone 0x01) (sendingAt 0 500 State.reset) (fun t => (ringView t, t.bt, t.tx.active))
      = some (([0x01], 1, 0, 1), { armed := true, elapsed := 0 }, true) := by decide

/-- SR-2: three early bits leave no trace. -/
theorem test_deselect :
    leaves .deselect (State.reset.setRx { shift := 0x05, count := 3 }) (fun t => (t.rx, t.rb.size))
      = some ({ shift := 0x00, count := 0 }, 0) := by decide

/-! ## ReceiveBuffer -/

/-- RB-3: the last free slot, and then nothing. -/
theorem test_push_last_slot :
    leaves (.push 0xAA) (holding [1, 2, 3, 4]) ringView = some ([1, 2, 3, 4, 0xAA], 5, 0, 0) := by decide

/-- RB-2: a Push to a full buffer that wraps. -/
theorem test_push_full :
    leaves (.push 0x11) ringWrapped ringView = some ([0x0C, 0x0D, 0x0E, 0x0F, 0x10], 5, 2, 2) := by
  decide

/-- RB-2: the oldest byte of a buffer that wraps. -/
theorem test_pop_oldest :
    leaves .pop ringWrapped (fun t => (t.ret, ringView t))
      = some (.byte 0x0C, ([0x0D, 0x0E, 0x0F, 0x10], 4, 3, 2)) := by decide

/-- RB-4: the empty Pop changes no state. -/
theorem test_pop_empty :
    leaves .pop (State.reset.setRb { data := [], size := 0, rd := 3, wr := 3 })
        (fun t => (t.ret, ringView t)) = some (.byte 0x00, ([], 0, 3, 3)) := by decide

/-- Reset: empty and not full (R122). -/
theorem test_isEmpty : leaves .isEmpty State.reset State.ret = some (.bit true) := by decide

/-- RB-5: C = 1, one byte is full. -/
theorem test_isFull :
    leaves .isFull ((inConfig (fun c => { c with capacity := 1 })).setRb (Ring.ofBytes 1 [0x11]))
      State.ret = some (.bit true) := by decide

/-! ## BurstTimer -/

/-- EX-1: a byte to a full buffer is lost and the timer restarts. -/
theorem test_onByte_full :
    leaves (.onByte 6) (timerAt true 3 (holding [1, 2, 3, 4, 5])) (fun t => (ringView t, t.bt))
      = some (([1, 2, 3, 4, 5], 5, 0, 0), { armed := true, elapsed := 0 }) := by decide

/-- BT-8: a restart during a send. -/
theorem test_btRestart :
    leaves .btRestart (sendingAt 0 500 State.reset) State.bt
      = some { armed := true, elapsed := 0 } := by decide

/-- BT-5: frozen during a send. -/
theorem test_onTick_frozen :
    leaves .onTick (timerAt true 2 (sendingAt 0 500 State.reset)) State.bt
      = some { armed := true, elapsed := 2 } := by decide

/-- P1: the fourth tick fires. -/
theorem test_onTick_fires :
    leaves .onTick (timerAt true 3 (holding [0x01, 0x27]))
        (fun t => (t.bt, ringView t, t.tx.active, t.tx.cmd))
      = some ({ armed := false, elapsed := 0 }, ([], 0, 2, 2), true, cmdOf 1 2 1 3) := by decide

/-- EX-4: under-run and an out-of-range selector in one FIRE. -/
theorem test_fire_dropped :
    leaves .fire (timerAt true 3 (holding [0x07])) (fun t => (ringView t, t.tx, modeOf t))
      = some (([], 0, 1, 1), Tx.reset, .idle) := by decide

/-- BT-3: FIRE with one byte in the buffer. -/
theorem test_fire_underrun :
    leaves .fire (timerAt true 3 (holding [0x01])) (fun t => (t.bt.armed, t.tx.active, t.tx.cmd))
      = some (false, true, cmdOf 1 0 0 0) := by decide

/-! ## CommandDecoder -/

/-- DEC-8: a surplus byte stays. -/
theorem test_decode_surplus :
    leaves .decode (holding [0x01, 0x27, 0x09]) (fun t => (t.ret, t.custom, liveBytes t))
      = some (.command (cmdOf 1 2 1 3), customReset, [0x09]) := by decide

/-- DEC-6: an empty buffer. -/
theorem test_decode_empty :
    leaves .decode (State.reset.setCustom Config.tcProfile) (fun t => (t.ret, t.custom))
      = some (.command (cmdOf 0 0 0 0), customReset) := by decide

/-- DEC-3, after the selector is popped: the reserved bits are ignored. -/
theorem test_cmdShort :
    leaves (.cmdShort 1) (holding [0xE7]) (fun t => (t.ret, liveBytes t))
      = some (.command (cmdOf 1 2 1 3), []) := by decide

/-- DEC-2, after the selector is popped. -/
theorem test_cmdLong :
    leaves .cmdLong (holding [0x93, 0x69, 0xC6, 0x67]) (fun t => (t.ret, t.custom, liveBytes t))
      = some (.command (cmdOf 0 2 1 3), #v[2, 1, 0, 3, 1, 2, 2, 1, 3, 0, 1, 2, 1], []) := by decide

/-- DEC-7: two missing bytes read as 0x00. -/
theorem test_cmdLong_underrun :
    leaves .cmdLong (holding [0xFF, 0x55]) (fun t => (t.ret, t.custom))
      = some (.command (cmdOf 0 0 0 0), #v[3, 3, 3, 3, 1, 1, 1, 1, 0, 0, 0, 0, 0]) := by decide

/-! ## PulseEncoder -/

/-- PE-1. -/
theorem test_emitZero :
    leaves .emitZero State.reset State.build = some [⟨true, 250⟩, ⟨false, 250⟩] := by decide
/-- PE-2. -/
theorem test_emitOne :
    leaves .emitOne State.reset State.build = some [⟨true, 250⟩, ⟨false, 1250⟩] := by decide
/-- PE-3. -/
theorem test_emitInit :
    leaves .emitInit State.reset State.build = some [⟨true, 250⟩, ⟨false, 2500⟩] := by decide
/-- PE-4. -/
theorem test_emitEndGap :
    leaves .emitEndGap State.reset State.build = some [⟨true, 250⟩, ⟨false, 10000⟩] := by decide
/-- PE-5. -/
theorem test_emitSbit0 :
    leaves .emitSbit0 (State.resetOf shortCfg) State.build
      = some [⟨true, 250⟩, ⟨false, 250⟩, ⟨true, 250⟩, ⟨false, 1250⟩] := by decide
/-- PE-5 and PE-6: the long gap first, and the same with the choice turned round. -/
theorem test_emitSbit1 :
    leaves .emitSbit1 (State.resetOf shortCfg) State.build
        = some [⟨true, 250⟩, ⟨false, 1250⟩, ⟨true, 250⟩, ⟨false, 250⟩]
      ∧ leaves .emitSbit1 (State.resetOf { shortCfg with shortOneLongGapFirst := some false })
          State.build = some [⟨true, 250⟩, ⟨false, 250⟩, ⟨true, 250⟩, ⟨false, 1250⟩] := by decide

/-- PE-7: PAT_LONG(2) is One, Zero, Zero, One. -/
theorem test_patLong :
    (patLong Config.tc 2).map Segment.dur = [250, 1250, 250, 250, 250, 250, 250, 1250] := by decide

/-! ## FrameTransmitter -/

/-- FT-1: an out-of-range selector. -/
theorem test_send_dropped :
    leaves (.send (cmdOf 2 0 0 0)) State.reset (fun t => (t.tx, t.trace)) = some (Tx.reset, []) := by
  decide

/-- FT-3 and FT-5: segments 110, 111, 122 and 123 of the frame after DEC-2, and its length. -/
theorem test_send_layout :
    leaves (.send (cmdOf 0 2 1 3))
        (State.reset.setCustom #v[2, 1, 0, 3, 1, 2, 2, 1, 3, 0, 1, 2, 1])
        (fun t => (t.tx.wave[110]?, t.tx.wave[111]?, t.tx.wave[122]?, t.tx.wave[123]?,
          t.tx.wave.length, (t.tx.wave.map Segment.dur).sum))
      = some (some ⟨true, 250⟩, some ⟨false, 1250⟩, some ⟨true, 250⟩, some ⟨false, 250⟩, 132, 77000) := by
  decide

/-- R204: a segment of the middle, then the last one, which ends the send. -/
theorem test_txStep_middle :
    leaves .txStep (sendingAt 0 500 State.reset)
        (fun t => (t.trace, t.tx.active, t.tx.idx, t.tx.cnt, txOut t))
      = some ([⟨true, 250⟩], true, 1, 5000, false) := by decide
theorem test_txStep_last :
    leaves .txStep (sendingAt 131 20000 State.reset) (fun t => (t.trace, t.tx.active, t.tx.wave))
      = some ([⟨false, 10000⟩], false, []) := by decide

/-! ## Reset -/

/-- RS-1: reset during a send. -/
theorem test_reset :
    leaves .reset (timerAt true 0 ((sendingAt 1 5000 (holding [0x01, 0x12])).setTrace [⟨true, 250⟩]))
        (fun t => (decide (t = State.reset.setTrace [⟨true, 250⟩]), txOut t)) = some (true, false) := by
  decide

/-! ## Cycle level -/

/-- RS-3: `sclk` high and `ss_n` low through reset; after the cycles 0 to 3 a sample was taken. -/
theorem test_false_edge_at_release :
    leaves .isEmpty
        (match runCycles
            [⟨true, true, false, false, false⟩, ⟨false, true, false, false, false⟩,
             ⟨false, true, false, false, false⟩, ⟨false, true, false, false, false⟩] State.reset with
          | .next t => t
          | _ => State.reset) (fun t => t.rx.count) = some 1 := by decide

/-- CY-3: the last cycle of a segment moves to the next, which lasts d·K cycles. -/
theorem test_cycle_next_segment :
    (match cycle rest (sendingAt 0 1 (State.resetOf cycleCfg)) with
      | .next t => some (t.tx.idx, t.tx.cnt, txOut t)
      | _ => none) = some (1, 20, false) := by decide

/-- CY-4: a tick in the last cycle of a send is ignored. -/
theorem test_tick_in_last_cycle :
    (match cycle { rest with tick := true }
        (timerAt true 0 (sendingAt 131 1 (State.resetOf cycleCfg))) with
      | .next t => some (t.tx.active, t.bt)
      | _ => none) = some (false, { armed := true, elapsed := 0 }) := by decide

/-! ## Witnesses: states and operands that meet the hypotheses of each statement together -/

/-- A send at its last segment, two cycles before its end, with the timer armed. -/
def lastSegment : State := timerAt true 3 (sendingAt 131 2 State.reset)

theorem lastSegment_runInv : RunInv lastSegment := by decide
theorem ringWrapped_runInv : RunInv (timerAt true 3 ringWrapped) := by decide
theorem ringAt2_runInv : RunInv ringAt2 := by decide

theorem witness_StepRunsNextOperation :
    let s := pending [.op (.cmdShort 1), .waitTx] State.reset
    s.cfg.wellFormed = true ∧ s.agenda = .op (.cmdShort 1) :: [.waitTx]
      ∧ (Instr.cmdShort 1).wellFormed = true := by decide

theorem witness_StepRunsEveryKindOfEvent_illFormed :
    (inConfig (fun c => { c with idleThreshold := 0 })).cfg.wellFormed = false := by decide
theorem witness_StepRunsEveryKindOfEvent_empty :
    State.reset.cfg.wellFormed = true ∧ State.reset.agenda = [] := by decide
theorem witness_StepRunsEveryKindOfEvent_byte :
    let s := pending [.byte 0xFF] (State.reset.setRx { shift := 1, count := 1 })
    s.cfg.wellFormed = true ∧ s.agenda = .byte 0xFF :: [] ∧ s.rx.count ≠ 0 := by decide
theorem witness_StepRunsEveryKindOfEvent_op :
    let s := pending [.op (.cmdShort 0)] State.reset
    s.cfg.wellFormed = true ∧ s.agenda = .op (.cmdShort 0) :: []
      ∧ (Instr.cmdShort 0).wellFormed = false := by decide
theorem witness_StepRunsEveryKindOfEvent_wait :
    let s := pending [.waitTx] lastSegment
    s.cfg.wellFormed = true ∧ s.agenda = .waitTx :: [] ∧ s.tx.active = true
      ∧ (pending [.waitTx] State.reset).tx.active = false := by decide
theorem witness_StepRunsEveryKindOfEvent_cycle :
    let s := pending [.cycle rest] State.reset
    s.cfg.wellFormed = true ∧ s.agenda = .cycle rest :: [] := by decide

/-- A short command, a long one, and none at all. -/
theorem witness_StepRunsTheFetchedCommand :
    (let s := pending [.op .decode] (holding [0x01, 0x27])
     s.cfg.wellFormed = true ∧ RingInv s ∧ s.agenda = .op .decode :: [])
    ∧ (let s := pending [.op .decode] (holding [0x00, 0xFF, 0x55])
       s.cfg.wellFormed = true ∧ RingInv s ∧ s.agenda = .op .decode :: [])
    ∧ (let s := pending [.op .decode] State.reset
       s.cfg.wellFormed = true ∧ RingInv s ∧ s.agenda = .op .decode :: []) := by decide

theorem witness_ShortWordFields :
    (0x0100 : BitVec 16).extractLsb' 8 8 ≠ 0 ∧ (0xFFFF : BitVec 16).extractLsb' 8 8 ≠ 0 := by decide
theorem witness_LongWordFields :
    (0 : BitVec 40).extractLsb' 32 8 = 0 ∧ (0x00FFFFFFFF : BitVec 40).extractLsb' 32 8 = 0 := by decide

theorem witness_EncodeDecodeRoundTrip :
    (Instr.cmdShort 1).wellFormed = true
      ∧ encode (.cmdShort 1) [0x27] = some (.burst [0x01, 0x27])
      ∧ encode .onTick [] = some (.port { PortWord.quiet with tick := true })
      ∧ encode .emitSbit1 [] = some (.patternBit .short true)
      ∧ ({ sel := 0xFF, rsv := 3, group := 3, device := 3, state := 3 } : ShortForm).wellFormed
          = true := by decide

theorem witness_PseudoInstructionBytes : (1 : Byte) ≠ 0 ∧ (0xFF : Byte) ≠ 0 := by decide
/-- R91: `LONG` of program P2 and `SHORT` of program P1 are these bursts. -/
theorem test_lines :
    lineEvents Config.tc (.short 1 2 1 3) = lineEvents Config.tc (.burst [0x01, 0x27])
      ∧ lineEvents Config.tc (.long #v[2, 1, 0, 3, 1, 2, 2, 1, 3, 0, 1, 2, 1] 2 1 3)
          = lineEvents Config.tc (.burst [0x00, 0x93, 0x69, 0xC6, 0x67]) := by decide

/-- Counts 6, 7 and 0. -/
theorem witness_SampleShiftsOneBit :
    (State.reset.setRx { shift := 0x3F, count := 6 }).rx.count ≠ 7
      ∧ (State.reset.setRx { shift := 0x7F, count := 7 }).rx.count = 7
      ∧ State.reset.rx.count = 0 ∧ RingInv ringWrapped := by decide

theorem witness_ByteAbstractionIsEightSamples :
    (let s := pending [.byte 0x80] State.reset
     s.cfg.wellFormed = true ∧ s.agenda = .byte 0x80 :: [] ∧ s.rx.count = 0)
    ∧ (let s := pending [.byte 0x80] (State.reset.setRx { shift := 0, count := 7 })
       s.cfg.wellFormed = true ∧ s.agenda = .byte 0x80 :: [] ∧ s.rx.count ≠ 0) := by decide

theorem witness_DeselectDiscardsPartialByte :
    State.reset.rx.count.toNat + [true, true, true, true, true, true, true].length < 8 := by decide

/-- A full buffer, and the last free slot. -/
theorem witness_PushAppendsOrDrops :
    ringWrapped.rb.size = ringWrapped.cfg.capacity
      ∧ (let s := holding [1, 2, 3, 4]
         s.rb.size ≠ s.cfg.capacity ∧ s.rb.wr < s.cfg.capacity ∧ s.rb.data.wf = true) := by decide

/-- An empty buffer, and one whose read index is the last slot. -/
theorem witness_PopTakesOldestOrSentinel :
    State.reset.rb.size = 0
      ∧ (let s := State.reset.setRb { data := [(4, 0xAA)], size := 1, rd := 4, wr := 0 }
         s.rb.size ≠ 0 ∧ s.rb.rd < s.cfg.capacity ∧ RingInv s) := by decide

theorem witness_BufferQueries :
    (inConfig (fun c => { c with capacity := 1 })).cfg.wellFormed = true := by decide

theorem witness_BufferIsFifo : RingInv ringWrapped ∧ RingInv ringAt2 := by decide

theorem witness_BytesPastCapacityAreLost :
    RingInv (holding [1, 2, 3, 4]) ∧ ([0xAA, 0xBB] : List Byte) ≠ [] := by decide

theorem witness_OnBytePushesAndRestarts :
    RingInv ringWrapped ∧ ringFull ringWrapped = true
      ∧ RingInv (holding [1, 2, 3, 4]) ∧ ringFull (holding [1, 2, 3, 4]) = false := by decide

theorem witness_RestartArmsTheTimer :
    lastSegment.tx.active = true ∧ RingInv lastSegment ∧ ringFull lastSegment = false := by decide

/-- Disarmed; during a send; counting to TH - 1; the tick that reaches TH. -/
theorem witness_OnTickCountsOrFires :
    State.reset.bt.armed = false
      ∧ lastSegment.tx.active = true
      ∧ (let s := timerAt true 2 State.reset
         s.bt.armed = true ∧ s.tx.active = false ∧ s.bt.elapsed + 1 ≠ s.cfg.idleThreshold)
      ∧ (let s := timerAt true 3 State.reset
         s.bt.armed = true ∧ s.tx.active = false ∧ s.bt.elapsed + 1 = s.cfg.idleThreshold) := by decide

/-- One FIRE that starts a send and one that E_SEL drops. -/
theorem witness_FireDecodesAndSends :
    RingInv (holding [0x01, 0x27]) ∧ (holding [0x01, 0x27]).tx.active = false
      ∧ leaves .fire (holding [0x01, 0x27]) modeOf = some .transmitting
      ∧ RingInv (holding [0x05, 0x27]) ∧ leaves .fire (holding [0x05, 0x27]) modeOf = some .idle := by
  decide

theorem witness_TimerLaws :
    let s := holding [0x01, 0x27]
    s.tx.active = false ∧ s.cfg.wellFormed = true ∧ RingInv s ∧ 3 < s.cfg.idleThreshold
      ∧ 0 < s.cfg.idleThreshold := by decide

theorem witness_ModeTransitions_byte : ∃ t, exec (.onByte 1) ringWrapped = .next t :=
  exists_of_runs (by decide)
/-- A tick that counts, one that fires, one that is ignored. -/
theorem witness_ModeTransitions_tick :
    (∃ t, exec .onTick (timerAt true 2 (holding [0x01])) = .next t)
      ∧ modeOf (timerAt true 2 (holding [0x01])) = .accumulating
      ∧ (∃ t, exec .onTick (timerAt true 3 (holding [0x01])) = .next t)
      ∧ modeOf (timerAt true 3 (holding [0x01])) = .accumulating
      ∧ (∃ t, exec .onTick lastSegment = .next t) ∧ modeOf lastSegment ≠ .accumulating :=
  ⟨exists_of_runs (by decide), by decide, exists_of_runs (by decide), by decide,
    exists_of_runs (by decide), by decide⟩
theorem witness_ModeTransitions_txStep :
    (∃ t, exec .txStep lastSegment = .next t ∧ t.tx.wave = [])
      ∧ modeOf lastSegment = .transmitting
      ∧ (∃ t, exec .txStep (sendingAt 0 500 State.reset) = .next t ∧ t.tx.wave ≠ []) :=
  ⟨⟨_, rfl, by decide⟩, by decide, ⟨_, rfl, by decide⟩⟩

/-- A state whose synchronizer shows the eighth edge of a byte, and stays selected (`ss_n` tied to 0). -/
def eighthEdge (c : Config) : State :=
  ((State.resetOf c).setSync { Sync.reset with ss1 := false, ss2 := false, sclk1 := true, sclk2 := true }).setRx
    { shift := 0x13, count := 7 }

/-- The pins at rest, selected. -/
def selected : Pins := { rest with ssn := false, sclk := true }

/-- What a run of cycles leaves, or where it started. -/
def cyclesFrom (ps : List Pins) (s : State) : State :=
  match runCycles ps s with
  | .next t => t
  | .fault _ => s
  | .refused _ => s

/-- `n` cycles with the serial link selected and a tick every second cycle. -/
def evenTicks (n : Nat) : List Pins :=
  (List.range n).map (fun k => { selected with tick := decide ((k + 0) % 2 = 0) })

theorem noByteIn_of_all {ps : List Pins} {s : State}
    (h : (List.range ps.length).all (fun k =>
      match runCycles (ps.take k) s, ps[k]? with
      | .next u, some p => !byteEvent (portWord u p)
      | _, _ => true) = true) : noByteIn ps s := by
  intro k u p hu hp
  have hk : k < ps.length := (List.getElem?_eq_some_iff.1 hp).1
  have := List.all_eq_true.1 h k (List.mem_range.2 hk)
  simpa [hu, hp] using this

/-- The cycle of a byte, then TH = 2 and a tick every second cycle: two cycles after it, the last before
the band, and four, its end. `ss_n` stays 0. -/
theorem witness_FireComesWithinItsBand :
    let s := eighthEdge cycleCfg
    let u := cyclesFrom [selected] s
    RunInv s ∧ selected.rst = false ∧ byteEvent (portWord s selected) = true
      ∧ cycle selected s = .next u ∧ u.tx.active = false ∧ (∀ q ∈ evenTicks 4, q.rst = false)
      ∧ noByteIn (evenTicks 2) u ∧ noByteIn (evenTicks 4) u
      ∧ (∃ t, runCycles (evenTicks 2) u = .next t) ∧ (∃ t, runCycles (evenTicks 4) u = .next t)
      ∧ (∀ k (h : k < (evenTicks 4).length), (evenTicks 4)[k].tick = decide ((k + 0) % 2 = 0))
      ∧ (evenTicks 2).length ≤ (s.cfg.idleThreshold - 1) * 2
      ∧ s.cfg.idleThreshold * 2 ≤ (evenTicks 4).length :=
  ⟨by decide, rfl, by decide, rfl, by decide, by decide, noByteIn_of_all (by decide),
    noByteIn_of_all (by decide), exists_of_runs (by decide), exists_of_runs (by decide), by decide,
    by decide, by decide⟩

theorem witness_ShortCommandReadsOneByte : RingInv State.reset ∧ RingInv ringWrapped := by decide
theorem witness_LongCommandWritesCustomSlot : RingInv (holding [0xFF, 0x55]) := by decide
theorem witness_DecodeIsAFunctionOfTheBuffer :
    RingInv ringWrapped ∧ byteAt ringWrapped 0 ≠ 0 ∧ RingInv State.reset ∧ byteAt State.reset 0 = 0 := by
  decide

theorem witness_ShortBitSegments :
    (State.resetOf shortCfg).cfg.shortOneLongGapFirst = some true
      ∧ (State.resetOf { shortCfg with shortOneLongGapFirst := some false }).cfg.shortOneLongGapFirst
          = some false := by decide

theorem witness_ShortBitsRunWithoutTheParameter :
    State.reset.cfg.shortOneLongGapFirst = none := by decide

theorem witness_FrameReadsBack :
    Config.tc.wellFormed = true ∧ shortCfg.wellFormed = true ∧ 15 < 16 := by decide

theorem witness_LongFrameLayout :
    Config.tc.protocol = .long
      ∧ (Config.tcProfile.toList ++ [(3 : PV), 2, 1])[15]? = some 1
      ∧ (Config.tcProfile.toList ++ [(3 : PV), 2, 1])[0]? = some 3 := by decide
theorem witness_ShortFrameLayout :
    shortCfg.protocol = .short ∧ shortCfg.shortOneLongGapFirst = some true
      ∧ (Config.tcProfile.toList ++ [(3 : PV), 2, 1])[15]? = some 1
      ∧ (Config.tcProfile.toList ++ [(3 : PV), 2, 1])[0]? = some 3 := by decide
theorem witness_FrameDuration :
    Config.tc.initLowMult = 10 ∧ Config.tc.gapMult = 40 ∧ Config.tc.protocol = .long
      ∧ Config.tc.zeroLowMult = 1 ∧ Config.tc.oneLowMult = 5
      ∧ Config.tc.symbolTableLong = #v[0b0101, 0b0110, 0b1001, 0b1010]
      ∧ shortCfg.initLowMult = 10 ∧ shortCfg.gapMult = 40 ∧ shortCfg.protocol = .short := by decide

theorem witness_WaveIsRepeatedFrames :
    1 < (inConfig (fun c => { c with repeatCount := 2 })).cfg.repeatCount
      ∧ (inConfig (fun c => { c with repeatCount := 0 })).cfg.repeatCount = 0 := by decide

/-- The first selector out of range, the last in range (with REPEAT = 0 and not), and selector 0. -/
theorem witness_SendStartsTheWaveform :
    State.reset.cfg.numProfiles ≤ (cmdOf 2 0 0 0).sel.toNat
      ∧ (cmdOf 1 2 1 3).sel.toNat < State.reset.cfg.numProfiles
      ∧ (inConfig (fun c => { c with repeatCount := 0 })).cfg.repeatCount = 0
      ∧ State.reset.cfg.repeatCount ≠ 0
      ∧ (cmdOf 0 2 1 3).sel = 0
      ∧ (cmdOf 1 2 1 3).sel ≠ 0
      ∧ State.reset.cfg.profiles[(cmdOf 1 2 1 3).sel.toNat - 1]? = some Config.tcProfile := by decide

/-- The first segment and the last. -/
theorem witness_TxStepEmitsOneSegment :
    (sendingAt 0 500 State.reset).tx.active = true
      ∧ (∃ seg rest, (sendingAt 0 500 State.reset).tx.wave = seg :: rest ∧ rest ≠ [])
      ∧ lastSegment.tx.active = true ∧ lastSegment.tx.wave = ⟨false, 10000⟩ :: [] :=
  ⟨by decide, ⟨_, _, rfl, by decide⟩, by decide, by decide⟩

theorem witness_QuiescentBlockHolds :
    State.reset.tx.active = false ∧ quiescent State.reset = true
      ∧ State.reset.cfg.wellFormed = true ∧ State.reset.agenda = []
      ∧ (let s := State.reset.setTx { Tx.reset with active := true }
         s.tx.active = true ∧ s.tx.wave = []) := by decide

/-- Two states that differ in their buffers, and send the same profile. -/
theorem witness_SendsOfOneCommandAreEqual :
    ringWrapped.cfg = State.reset.cfg
      ∧ profileOf ringWrapped.cfg ringWrapped.custom (cmdOf 1 2 1 3).sel.toNat
          = profileOf State.reset.cfg State.reset.custom (cmdOf 1 2 1 3).sel.toNat
      ∧ (cmdOf 1 2 1 3).sel.toNat < ringWrapped.cfg.numProfiles
      ∧ ringWrapped.tx.active = false ∧ State.reset.tx.active = false := by decide

theorem witness_EndOfASend :
    TxInv lastSegment ∧ TimerInv lastSegment ∧ lastSegment.tx.active = true
      ∧ lastSegment.tx.wave = [⟨false, 10000⟩] ∧ lastSegment.bt.armed = true := by decide

theorem witness_SendIsNotDisturbed :
    RunInv (pending [.byte 0x01] lastSegment) ∧ lastSegment.tx.active = true
      ∧ resetsNext (pending [.byte 0x01] lastSegment) = false
      ∧ ∃ t, step (pending [.byte 0x01] lastSegment) = .next t :=
  ⟨by decide, by decide, by decide, exists_of_runs (by decide)⟩
/-- A cycle inside a segment and a TX_STEP. -/
theorem witness_SendIsNotDisturbed_transmitter :
    RunInv (pending [.cycle rest] lastSegment) ∧ resetsNext (pending [.cycle rest] lastSegment) = false
      ∧ (∃ t, step (pending [.cycle rest] lastSegment) = .next t)
      ∧ RunInv lastSegment ∧ ∃ t, step lastSegment = .next t :=
  ⟨by decide, by decide, exists_of_runs (by decide), by decide, exists_of_runs (by decide)⟩

theorem witness_ResetCycleOutranksEverything :
    timingKept lastSegment.cfg.sampleEdge lastSegment.mon { rest with rst := true, tick := true }
      = true := by decide

/-- Deselected; selected at an edge; selected without one. -/
theorem witness_ReceiverFollowsTheSynchronizer :
    let edge := (State.reset.setSync { Sync.reset with ss2 := false, sclk2 := true })
    let still := (State.reset.setSync { Sync.reset with ss2 := false })
    State.reset.sync.ss2 = true ∧ runs (cycle rest State.reset) = true
      ∧ edge.sync.ss2 = false ∧ syncSeesEdge edge ∧ runs (cycle rest edge) = true
      ∧ still.sync.ss2 = false ∧ ¬ syncSeesEdge still ∧ runs (cycle rest still) = true := by decide

/-- The eighth bit with a tick; a tick in the last cycle of a send; a tick that fires. -/
theorem witness_ByteWinsOverTick :
    let tick := { rest with tick := true }
    let eighth := (State.reset.setSync { Sync.reset with ss2 := false, sclk2 := true }).setRx
      { shift := 0x13, count := 7 }
    let last := timerAt true 3 (sendingAt 131 1 State.reset)
    let fires := timerAt true 3 (holding [0x01])
    byteEvent (portWord eighth tick) = true ∧ runs (cycle tick eighth) = true
      ∧ byteEvent (portWord last tick) = false ∧ last.tx.active = true ∧ runs (cycle tick last) = true
      ∧ byteEvent (portWord fires tick) = false ∧ fires.tx.active = false
      ∧ runs (cycle tick fires) = true := by decide

/-- Inside a segment. -/
theorem witness_SequencerFollowsTheWaveform_inside :
    let s := sendingAt 0 2 State.reset
    RunInv s ∧ s.tx.active = true ∧ 1 < s.tx.cnt ∧ rest.rst = false ∧ runs (cycle rest s) = true := by
  decide
/-- At the end of a segment that is not the last. -/
theorem witness_SequencerFollowsTheWaveform_next :
    let s := sendingAt 130 1 State.reset
    RunInv s ∧ s.tx.active = true ∧ ¬ 1 < s.tx.cnt
      ∧ (waveOf s s.tx.cmd)[s.tx.idx + 1]? = some ⟨false, 10000⟩ ∧ runs (cycle rest s) = true := by
  decide
/-- At the end of the last. -/
theorem witness_SequencerFollowsTheWaveform_last :
    let s := sendingAt 131 1 State.reset
    RunInv s ∧ s.tx.active = true ∧ ¬ 1 < s.tx.cnt
      ∧ (waveOf s s.tx.cmd)[s.tx.idx + 1]? = none ∧ runs (cycle rest s) = true := by
  decide

/-- One cycle of two left, and both. -/
theorem witness_LineShowsTheWaveformCycleByCycle :
    RunInv lastSegment ∧ lastSegment.tx.active = true ∧ (∀ p ∈ [rest, rest], p.rst = false)
      ∧ [rest].length < (lineAhead lastSegment).length
      ∧ [rest, rest].length = (lineAhead lastSegment).length
      ∧ runs (runCycles [rest] lastSegment) = true
      ∧ runs (runCycles [rest, rest] lastSegment) = true := by decide

theorem witness_CyclesRefineEvents : runs (runCycles [rest, rest] lastSegment) = true := by decide

/-- A byte's first bit: `sdi` set, three cycles of low, three of high, `sdi` cleared. -/
def oneBit : List Pins :=
  let low : Pins := { rest with ssn := false, sdi := true }
  [{ low with sdi := false }, low, low, low, { low with sclk := true }, { low with sclk := true },
    { low with sclk := true }, { low with sdi := false }]

/-- A run that keeps R269 at its bounds, and meets both parts of the statement. -/
theorem witness_SerialTimingIsEnforced :
    RunInv State.reset ∧ State.reset.mon = Monitor.start
      ∧ keepsSerialTiming State.reset.cfg.sampleEdge oneBit
      ∧ ∃ t, runCycles oneBit State.reset = .next t := by
  refine ⟨by decide, rfl, ⟨fun i j hij hi hj => ?_, fun i j hi hj => ?_⟩, exists_of_runs (by decide)⟩
  · have h1 : i < 7 := by have := hi.2; simp [oneBit] at this; omega
    have h2 : j < 7 := by have := hj.2; simp [oneBit] at this; omega
    have key : ∀ i < 7, pinMoves Pins.sclk oneBit i → i = 3 ∨ i = 6 := by decide
    rcases key i h1 hi with rfl | rfl <;> rcases key j h2 hj with rfl | rfl <;> omega
  · have h1 : i < 7 := by have := hi.1.2; simp [oneBit] at this; omega
    have h2 : j < 7 := by
      rcases hj with hj | hj <;> (have := hj.2; simp [oneBit] at this; omega)
    have edge : ∀ i < 7, hostSamples .rising oneBit i → i = 3 := by decide
    have data : ∀ j < 7, pinMoves Pins.sdi oneBit j → j = 0 ∨ j = 6 := by decide
    have select : ∀ j < 7, ¬ pinMoves Pins.ssn oneBit j := by decide
    have hi3 := edge i h1 hi
    rcases hj with hj | hj
    · rcases data j h2 hj with rfl | rfl <;> omega
    · exact absurd hj (select j h2)
/-- Runs that break it: a phase of one cycle, one of two cycles, and a change of `sdi` two cycles after
a sampling edge and two before one. -/
theorem witness_SerialTimingIsEnforced_refused :
    let low : Pins := rest
    let high : Pins := { rest with sclk := true }
    runs (runCycles [low, high, low] State.reset) = false
      ∧ runs (runCycles [low, high, high, low] State.reset) = false
      ∧ runs (runCycles [low, high, high, { high with sdi := true }] State.reset) = false
      ∧ runs (runCycles [low, { low with sdi := true }, low, { high with sdi := true }] State.reset)
          = false := by decide

theorem witness_ResetMeetsTheRunInvariant : shortCfg.wellFormed = true := by decide

theorem witness_EveryOperationKeepsTheBlockInvariant :
    BlockInv (timerAt true 3 ringWrapped) ∧ ∃ t, exec .fire (timerAt true 3 ringWrapped) = .next t :=
  ⟨by decide, exists_of_runs (by decide)⟩

theorem witness_EveryStepKeepsTheRunInvariant :
    RunInv (pending [.op .onTick] (timerAt true 3 ringWrapped))
      ∧ ∃ t, step (pending [.op .onTick] (timerAt true 3 ringWrapped)) = .next t :=
  ⟨by decide, exists_of_runs (by decide)⟩

/-- A step that answers, and a BYTE that is refused. -/
theorem witness_TheBlockNeverStops :
    RunInv (pending [.op .onTick] lastSegment)
      ∧ RunInv (pending [.byte 1] (State.reset.setRx { shift := 0, count := 1 })) := by decide
/-- A cycle that is refused. -/
theorem witness_TheBlockNeverStops_cycle :
    let s := pending [.cycle { rest with sclk := true }]
      (State.reset.setMon { Monitor.start with last := some (serialPins rest), sclkAge := 1 })
    RunInv s ∧ timingKept s.cfg.sampleEdge s.mon { rest with sclk := true } = false := by decide

theorem witness_ConfigurationNeverChanges : ∃ t, step lastSegment = .next t :=
  exists_of_runs (by decide)

/-- One changed element for each clause. -/
theorem witness_OnlyTheListedWritersWrite :
    leaves (.sample true) State.reset (fun t => decide (t.rx ≠ State.reset.rx)) = some true
      ∧ leaves (.push 1) State.reset (fun t => decide (t.rb.data ≠ State.reset.rb.data
          ∧ t.rb.size ≠ State.reset.rb.size)) = some true
      ∧ leaves .pop ringWrapped (fun t => decide (t.rb.rd ≠ ringWrapped.rb.rd)) = some true
      ∧ leaves .btRestart State.reset (fun t => decide (t.bt ≠ State.reset.bt)) = some true
      ∧ leaves .cmdLong (holding [0xFF]) (fun t => decide (t.custom ≠ (holding [0xFF]).custom))
          = some true
      ∧ leaves (.send (cmdOf 1 2 1 3)) State.reset
          (fun t => decide (t.tx ≠ State.reset.tx ∧ txOut t ≠ txOut State.reset)) = some true
      ∧ leaves .txStep lastSegment (fun t => decide (t.trace ≠ lastSegment.trace)) = some true := by
  decide

theorem witness_StoringOperationsFrame :
    (∀ i ∈ [Instr.push 1, .onByte 1, .byteDone 1, .sample true], runs (exec i State.reset) = true)
      ∧ State.reset.rx.count ≠ 7 ∧ ringWrapped.rb.size = ringWrapped.cfg.capacity
      ∧ runs (exec (.push 1) ringWrapped) = true := by decide
theorem witness_PoppingOperationsFrame :
    ∀ i ∈ [Instr.pop, .decode, .cmdShort 1, .cmdLong], runs (exec i ringWrapped) = true := by decide
theorem witness_TimerOperationsFrame :
    ∀ i ∈ [Instr.btRestart, .onTick, .fire], runs (exec i (timerAt true 3 ringWrapped)) = true := by
  decide
theorem witness_NonStoringOperationsFrame :
    ∀ i ∈ [Instr.isEmpty, .isFull, .emitZero, .emitOne, .emitInit, .emitEndGap, .emitSbit0, .emitSbit1,
      .send (cmdOf 1 2 1 3), .txStep, .deselect],
      runs (exec i (State.resetOf shortCfg)) = true := by decide

end Sys2Proof.Tests
end

/-! SUPPORT. The scope of the block (00_scope.md): what a step does with each kind of agenda, that nothing
writes the configuration (R21), and that the cycle level refines the event level (R5). -/

namespace Sys2Proof.Machine

/-! ## One step, by the oldest entry of the agenda -/

theorem step_of_wellFormed {s : State} (h : s.cfg.wellFormed = true) : step s = stepAgenda s := by
  simp [step, h]

theorem step_of_illFormed {s : State} (h : s.cfg.wellFormed = false) :
    step s = .refused .illFormedConfig := by
  simp [step, h]

theorem stepAgenda_nil {s : State} (h : s.agenda = []) : stepAgenda s = exec .txStep s := by
  simp [stepAgenda, h]

theorem stepAgenda_op {s : State} {i : Instr} {rest : List Event} (h : s.agenda = .op i :: rest) :
    stepAgenda s = stepOp i (s.setAgenda rest) := by
  simp [stepAgenda, h]

theorem stepAgenda_byte {s : State} {b : Byte} {rest : List Event} (h : s.agenda = .byte b :: rest) :
    stepAgenda s = byteOp b (s.setAgenda rest) := by
  simp [stepAgenda, h]

theorem stepAgenda_waitTx {s : State} {rest : List Event} (h : s.agenda = .waitTx :: rest) :
    stepAgenda s = stepWait rest s := by
  simp [stepAgenda, h]

theorem stepAgenda_cycle {s : State} {p : Pins} {rest : List Event}
    (h : s.agenda = .cycle p :: rest) : stepAgenda s = cycle p (s.setAgenda rest) := by
  simp [stepAgenda, h]

/-- A BYTE off a byte boundary is refused (40_serial_receiver.md R104). -/
theorem byteOp_misaligned {s : State} (b : Byte) (h : s.rx.count ≠ 0) :
    byteOp b s = .refused .misalignedByte :=
  if_neg h

/-- Settles O1: the agenda's oldest entry selects `stepOp`, whose guard is the premise. -/
theorem stepRunsNextOperation : Obligations.StepRunsNextOperation := by
  intro s i rest hc ha hi
  rw [step_of_wellFormed hc, stepAgenda_op ha, stepOp, if_pos hi]

/-- Settles O2, one equation of the step for each kind of agenda. -/
theorem stepRunsEveryKindOfEvent : Obligations.StepRunsEveryKindOfEvent := by
  intro s rest
  refine ⟨step_of_illFormed, fun hc => ?_⟩
  rw [step_of_wellFormed hc]
  refine ⟨stepAgenda_nil, fun b ha hn => ?_, fun i ha hi => ?_, stepAgenda_waitTx,
    fun p => stepAgenda_cycle⟩
  · rw [stepAgenda_byte ha]
    exact byteOp_misaligned (s := s.setAgenda rest) b hn
  · simp [stepAgenda_op ha, stepOp, hi]

/-! ## The SHORT bits (44_pulse_encoder.md R185) -/

theorem lateSegs_eq (c : Config) :
    lateSegs c = [⟨true, c.t⟩, ⟨false, c.t⟩, ⟨true, c.t⟩, ⟨false, c.shortLongLowMult * c.t⟩] := by
  simp [lateSegs, pulse]

theorem earlySegs_eq (c : Config) :
    earlySegs c = [⟨true, c.t⟩, ⟨false, c.shortLongLowMult * c.t⟩, ⟨true, c.t⟩, ⟨false, c.t⟩] := by
  simp [earlySegs, pulse]

theorem exec_emitSbit0 (s : State) :
    exec .emitSbit0 s = .next (s.setBuild (s.build ++
      if oneLongGapFirst s.cfg then lateSegs s.cfg else earlySegs s.cfg)) := rfl

theorem exec_emitSbit1 (s : State) :
    exec .emitSbit1 s = .next (s.setBuild (s.build ++
      if oneLongGapFirst s.cfg then earlySegs s.cfg else lateSegs s.cfg)) := rfl

/-- Settles O29: the order is the free value that stands in for the missing parameter. -/
theorem shortBitsRunWithoutTheParameter : Obligations.ShortBitsRunWithoutTheParameter := by
  intro s _
  refine ⟨oneLongGapFirst s.cfg, ?_, ?_⟩
  · rw [exec_emitSbit1, lateSegs_eq, earlySegs_eq]
  · rw [exec_emitSbit0, lateSegs_eq, earlySegs_eq]

/-! ## Nothing writes the configuration (00_scope.md R21) -/

theorem pushByte_cfg {s t : State} {b : Byte} (h : pushByte b s = .ok t) : t.cfg = s.cfg := by
  rcases pushByte_cases h with ⟨-, rfl⟩ | ⟨-, -, rfl⟩ <;> rfl

theorem onByteOp_cfg {s t : State} {b : Byte} (h : onByteOp b s = .ok t) : t.cfg = s.cfg := by
  rw [onByteOp_frame h]; rfl

theorem sampleOp_cfg {s t : State} {bit : Bool} (h : sampleOp bit s = .ok t) : t.cfg = s.cfg := by
  rw [sampleOp_frame h]; rfl

theorem fireOp_cfg {s t : State} (h : fireOp s = .ok t) : t.cfg = s.cfg := by
  rw [fireOp_frame h]; rfl

theorem onTickOp_cfg {s t : State} (h : onTickOp s = .ok t) : t.cfg = s.cfg := by
  rcases onTickOp_cases h with ⟨-, rfl⟩ | ⟨-, -, -, hf⟩ | ⟨-, -, -, rfl⟩
  · rfl
  · exact fireOp_cfg hf
  · rfl

theorem stepTx_cfg {s t : State} (h : stepTx s = .ok t) : t.cfg = s.cfg := by
  rcases stepTx_cases h with ⟨-, rfl⟩ | ⟨-, seg, rest, -, rfl⟩ <;> rfl

theorem sendCommand_cfg (cmd : Command) (s : State) : (sendCommand cmd s).cfg = s.cfg := by
  rw [sendCommand_frame]; rfl

/-- An operation that returns a value keeps the configuration when the state it computes does. -/
theorem settleWith_cfg {α : Type} {wrap : α → Ret} {x : Except Fault (α × State)} {s t : State}
    (hx : ∀ v u, x = .ok (v, u) → u.cfg = s.cfg) (h : settleWith wrap x = .next t) :
    t.cfg = s.cfg := by
  obtain ⟨v, u, hu, rfl⟩ := settleWith_next.1 h
  exact hx v u hu

/-- No operation writes the configuration. -/
theorem exec_cfg {i : Instr} {s t : State} (h : exec i s = .next t) : t.cfg = s.cfg := by
  cases i with
  | sample bit => exact sampleOp_cfg (settle_next.1 h)
  | byteDone b => exact onByteOp_cfg (settle_next.1 h)
  | deselect => cases h; rfl
  | push b => exact pushByte_cfg (settle_next.1 h)
  | pop => exact settleWith_cfg (fun _ _ hp => (popFrame_of_pop hp).1.cfg) h
  | isEmpty => cases h; rfl
  | isFull => cases h; rfl
  | onByte b => exact onByteOp_cfg (settle_next.1 h)
  | btRestart => cases h; rfl
  | onTick => exact onTickOp_cfg (settle_next.1 h)
  | fire => exact fireOp_cfg (settle_next.1 h)
  | decode => exact settleWith_cfg (fun _ _ hd => (decodeCommand_cases hd).2.1.cfg) h
  | cmdShort sel => exact settleWith_cfg (fun _ _ hd => (shortCommand_cases hd).2.2.1.cfg) h
  | cmdLong => exact settleWith_cfg (fun _ _ hd => (longCommand_cases hd).2.2.2.1.cfg) h
  | emitZero => cases h; rfl
  | emitOne => cases h; rfl
  | emitInit => cases h; rfl
  | emitEndGap => cases h; rfl
  | emitSbit0 => cases h; rfl
  | emitSbit1 => cases h; rfl
  | send cmd => cases h; exact sendCommand_cfg cmd s
  | txStep => exact stepTx_cfg (settle_next.1 h)
  | reset => cases h; rfl

theorem runOps_cfg {is : List Instr} {s t : State} (h : runOps is s = .next t) : t.cfg = s.cfg := by
  induction is generalizing s with
  | nil => cases h; rfl
  | cons i is ih =>
    obtain ⟨u, hu, ht⟩ := runOps_cons_next.1 h
    exact (ih ht).trans (exec_cfg hu)

theorem byteOp_cfg {b : Byte} {s t : State} (h : byteOp b s = .next t) : t.cfg = s.cfg := by
  unfold byteOp at h
  split at h
  · exact onByteOp_cfg (s := s.setRx { shift := b, count := 0 }) (settle_next.1 h)
  · cases h

/-- What ends a cycle answers a next state only after operations that do. -/
theorem finishCycle_next {before t : State} {p : Pins} {o : Host.Outcome State Fault Refusal}
    (h : finishCycle before p o = .next t) :
    ∃ u, o = .next u ∧ t = (countCycle before u).setSync (nextSync before.sync p) := by
  cases o with
  | next u => exact ⟨u, rfl, (Host.Outcome.next.inj h).symm⟩
  | fault f => cases h
  | refused r => cases h

/-- A cycle that answers a next state runs the operations it carries (00_scope.md R5) on the state
`cycleStart`; unless it is a reset cycle, it then counts and shifts the synchronizer. -/
theorem cycle_runsOps {p : Pins} {s t : State} (h : cycle p s = .next t) :
    ∃ u, runOps (decodePort (portWord s p)) (cycleStart p s) = .next u
      ∧ (t = u ∨ t = (countCycle s u).setSync (nextSync s.sync p)) := by
  unfold cycle cycleOps at h
  split at h
  · split at h
    · exact ⟨t, h, .inl rfl⟩
    · obtain ⟨u, hu, ht⟩ := finishCycle_next h
      exact ⟨u, hu, .inr ht⟩
  · cases h

theorem countCycle_cfg (s u : State) : (countCycle s u).cfg = u.cfg := by
  unfold countCycle
  split <;> rfl

theorem cycle_cfg {p : Pins} {s t : State} (h : cycle p s = .next t) : t.cfg = s.cfg := by
  obtain ⟨u, hu, ht⟩ := cycle_runsOps h
  have hcfg : u.cfg = s.cfg := runOps_cfg (s := cycleStart p s) hu
  rcases ht with rfl | rfl
  · exact hcfg
  · exact (countCycle_cfg s u).trans hcfg

theorem stepOp_next {i : Instr} {s t : State} (h : stepOp i s = .next t) : exec i s = .next t := by
  unfold stepOp at h
  split at h
  · exact h
  · cases h

theorem stepWait_cfg {rest : List Event} {s t : State} (h : stepWait rest s = .next t) :
    t.cfg = s.cfg := by
  unfold stepWait at h
  split at h
  · exact exec_cfg h
  · cases h; rfl

theorem stepAgenda_cfg {s t : State} (h : stepAgenda s = .next t) : t.cfg = s.cfg := by
  cases ha : s.agenda with
  | nil =>
    rw [stepAgenda_nil ha] at h
    exact exec_cfg h
  | cons e rest =>
    cases e with
    | op i =>
      rw [stepAgenda_op ha] at h
      exact exec_cfg (s := s.setAgenda rest) (stepOp_next h)
    | byte b =>
      rw [stepAgenda_byte ha] at h
      exact byteOp_cfg (s := s.setAgenda rest) h
    | waitTx =>
      rw [stepAgenda_waitTx ha] at h
      exact stepWait_cfg h
    | cycle p =>
      rw [stepAgenda_cycle ha] at h
      exact cycle_cfg (s := s.setAgenda rest) h

/-- Settles O55: whatever the agenda holds, the step is made of operations, which keep the
configuration, and of updates of other fields. -/
theorem configurationNeverChanges : Obligations.ConfigurationNeverChanges := by
  intro s t h
  unfold step at h
  split at h
  · exact stepAgenda_cfg h
  · cases h

/-! ## The event level of description (10_state.md R34, R43)

`eventView` forgets what only the cycle level describes. No operation reads any of it: run on
`eventView s` in place of `s`, an operation has the same outcome, seen at the event level. Where an
operation does not write the forgotten fields either, it commutes with `eventView`. -/

@[simp] theorem eventView_cfg (s : State) : (eventView s).cfg = s.cfg := rfl
@[simp] theorem eventView_rx (s : State) : (eventView s).rx = s.rx := rfl
@[simp] theorem eventView_rb (s : State) : (eventView s).rb = s.rb := rfl
@[simp] theorem eventView_bt (s : State) : (eventView s).bt = s.bt := rfl
@[simp] theorem eventView_custom (s : State) : (eventView s).custom = s.custom := rfl
@[simp] theorem eventView_tx_active (s : State) : (eventView s).tx.active = s.tx.active := rfl
@[simp] theorem eventView_tx_wave (s : State) : (eventView s).tx.wave = s.tx.wave := rfl

theorem pushByte_eventView (b : Byte) (s : State) :
    pushByte b (eventView s) = (pushByte b s).map eventView := by
  unfold pushByte ringWrite
  rw [eventView_rb, eventView_cfg]
  split_ifs <;> rfl

theorem popByte_eventView (s : State) :
    popByte (eventView s) = (popByte s).map (Prod.map id eventView) := by
  unfold popByte ringRead
  rw [eventView_rb, eventView_cfg]
  split_ifs <;> rfl

theorem onByteOp_eventView (b : Byte) (s : State) :
    onByteOp b (eventView s) = (onByteOp b s).map eventView := by
  simp only [onByteOp, pushByte_eventView]
  cases pushByte b s <;> rfl

theorem sampleOp_eventView (bit : Bool) (s : State) :
    sampleOp bit (eventView s) = (sampleOp bit s).map eventView := by
  unfold sampleOp
  rw [eventView_rx]
  split_ifs
  · exact onByteOp_eventView _ (s.setRx _)
  · rfl

theorem shortCommand_eventView (sel : Byte) (s : State) :
    shortCommand sel (eventView s) = (shortCommand sel s).map (Prod.map id eventView) := by
  simp only [shortCommand, popByte_eventView]
  cases popByte s <;> rfl

theorem popFour_eventView (s : State) :
    popFour (eventView s) = (popFour s).map (Prod.map id eventView) := by
  simp only [popFour, popByte_eventView]
  rcases popByte s with f | ⟨b1, s1⟩
  · rfl
  simp only [Except.map, Prod.map, popByte_eventView]
  rcases popByte s1 with f | ⟨b2, s2⟩
  · rfl
  simp only [Except.map, Prod.map, popByte_eventView]
  rcases popByte s2 with f | ⟨b3, s3⟩
  · rfl
  simp only [Except.map, Prod.map, popByte_eventView]
  rcases popByte s3 with f | ⟨b4, s4⟩ <;> rfl

theorem longCommand_eventView (s : State) :
    longCommand (eventView s) = (longCommand s).map (Prod.map id eventView) := by
  simp only [longCommand, popFour_eventView]
  cases popFour s <;> rfl

theorem decodeCommand_eventView (s : State) :
    decodeCommand (eventView s) = (decodeCommand s).map (Prod.map id eventView) := by
  simp only [decodeCommand, popByte_eventView]
  rcases popByte s with f | ⟨sel, s1⟩
  · rfl
  · simp only [Except.map, Prod.map, id]
    split
    · exact longCommand_eventView s1
    · exact shortCommand_eventView sel s1

theorem sendCommand_eventView (cmd : Command) (s : State) :
    eventView (sendCommand cmd (eventView s)) = eventView (sendCommand cmd s) := by
  have hwave : waveOf (eventView s) cmd = waveOf s cmd := waveOf_congr rfl rfl cmd
  simp only [sendCommand, hwave, eventView_cfg]
  split
  · rfl
  · split <;> rfl

theorem fireOp_eventView (s : State) :
    (fireOp (eventView s)).map eventView = (fireOp s).map eventView := by
  have hdisarm : disarmTimer (eventView s) = eventView (disarmTimer s) := rfl
  simp only [fireOp, hdisarm, decodeCommand_eventView]
  rcases decodeCommand (disarmTimer s) with f | ⟨cmd, s1⟩
  · rfl
  · exact congrArg Except.ok (sendCommand_eventView cmd s1)

theorem onTickOp_eventView (s : State) :
    (onTickOp (eventView s)).map eventView = (onTickOp s).map eventView := by
  unfold onTickOp
  rw [eventView_bt, eventView_tx_active, eventView_cfg]
  split_ifs
  · rfl
  · exact fireOp_eventView s
  · rfl

theorem stepTx_eventView (s : State) :
    (stepTx (eventView s)).map eventView = (stepTx s).map eventView := by
  unfold stepTx
  rw [eventView_tx_active, eventView_tx_wave]
  split_ifs
  · rcases s.tx.wave with _ | ⟨seg, _ | ⟨nxt, rest⟩⟩ <;> rfl
  · rfl

/-! ### Outcomes at the event level -/

/-- What the event level of description sees of an outcome. -/
def eventOutcome : Host.Outcome State Fault Refusal → Host.Outcome State Fault Refusal
  | .next s => .next (eventView s)
  | .fault f => .fault f
  | .refused r => .refused r

theorem eventOutcome_next {o : Host.Outcome State Fault Refusal} {t : State} :
    eventOutcome o = .next (eventView t) ↔ ∃ u, o = .next u ∧ eventView u = eventView t := by
  cases o <;> simp [eventOutcome]

theorem eventOutcome_settle (x : Except Fault State) :
    eventOutcome (settle x) = settle (x.map eventView) := by
  cases x <;> rfl

theorem eventOutcome_settleWith {α : Type} (wrap : α → Ret) (x : Except Fault (α × State)) :
    eventOutcome (settleWith wrap x) = settleWith wrap (x.map (Prod.map id eventView)) := by
  cases x <;> rfl

theorem eventOutcome_settle_map (x : Except Fault State) :
    eventOutcome (settle (x.map eventView)) = eventOutcome (settle x) := by
  cases x <;> rfl

theorem eventOutcome_settleWith_map {α : Type} (wrap : α → Ret) (x : Except Fault (α × State)) :
    eventOutcome (settleWith wrap (x.map (Prod.map id eventView)))
      = eventOutcome (settleWith wrap x) := by
  cases x <;> rfl

theorem eventOutcome_settle_congr {x y : Except Fault State}
    (h : x.map eventView = y.map eventView) : eventOutcome (settle x) = eventOutcome (settle y) := by
  rw [eventOutcome_settle, eventOutcome_settle, h]

/-- No operation reads what the event level of description does not see. -/
theorem exec_eventView (i : Instr) (s : State) :
    eventOutcome (exec i (eventView s)) = eventOutcome (exec i s) := by
  cases i with
  | sample bit => simp only [exec, execSample, sampleOp_eventView, eventOutcome_settle_map]
  | byteDone b =>
    simp only [exec, execByteDone, byteDoneOp, onByteOp_eventView, eventOutcome_settle_map]
  | deselect => rfl
  | push b => simp only [exec, execPush, pushByte_eventView, eventOutcome_settle_map]
  | pop => simp only [exec, execPop, popByte_eventView, eventOutcome_settleWith_map]
  | isEmpty => rfl
  | isFull => rfl
  | onByte b => simp only [exec, execOnByte, onByteOp_eventView, eventOutcome_settle_map]
  | btRestart => rfl
  | onTick => exact eventOutcome_settle_congr (onTickOp_eventView s)
  | fire => exact eventOutcome_settle_congr (fireOp_eventView s)
  | decode => simp only [exec, execDecode, decodeCommand_eventView, eventOutcome_settleWith_map]
  | cmdShort sel =>
    simp only [exec, execCmdShort, shortCommand_eventView, eventOutcome_settleWith_map]
  | cmdLong => simp only [exec, execCmdLong, longCommand_eventView, eventOutcome_settleWith_map]
  | emitZero => rfl
  | emitOne => rfl
  | emitInit => rfl
  | emitEndGap => rfl
  | emitSbit0 => rfl
  | emitSbit1 => rfl
  | send cmd => exact congrArg Host.Outcome.next (sendCommand_eventView cmd s)
  | txStep => exact eventOutcome_settle_congr (stepTx_eventView s)
  | reset => rfl

/-- One operation, simulated from a state that looks the same at the event level. -/
theorem exec_simulates {i : Instr} {s s' t : State} (hv : eventView s' = eventView s)
    (h : exec i s = .next t) : ∃ t', exec i s' = .next t' ∧ eventView t' = eventView t := by
  rw [← eventOutcome_next, ← exec_eventView, hv, exec_eventView, h]
  rfl

/-- A run of operations, simulated from a state that looks the same at the event level. -/
theorem runOps_simulates {is : List Instr} {s s' t : State} (hv : eventView s' = eventView s)
    (h : runOps is s = .next t) : ∃ t', runOps is s' = .next t' ∧ eventView t' = eventView t := by
  induction is generalizing s s' with
  | nil =>
    cases h
    exact ⟨s', rfl, hv⟩
  | cons i is ih =>
    obtain ⟨u, hu, ht⟩ := runOps_cons_next.1 h
    obtain ⟨u', hu', hv'⟩ := exec_simulates hv hu
    rw [runOps_cons_of hu']
    exact ih hv' ht

/-! ## The cycle level refines the event level (00_scope.md R5) -/

theorem eventView_cycleStart (p : Pins) (s : State) : eventView (cycleStart p s) = eventView s := rfl

/-- What ends a cycle moves nothing that the event level sees. -/
theorem eventView_finish (s u : State) (y : Sync) :
    eventView ((countCycle s u).setSync y) = eventView u := by
  unfold countCycle
  split <;> rfl

/-- One cycle is simulated by the operations it carries. -/
theorem cycle_refines {p : Pins} {s t : State} (h : cycle p s = .next t) :
    ∃ u, runOps (decodePort (portWord s p)) s = .next u ∧ eventView u = eventView t := by
  obtain ⟨v, hv, ht⟩ := cycle_runsOps h
  have hvt : eventView v = eventView t := by
    rcases ht with rfl | rfl
    · rfl
    · exact (eventView_finish s v _).symm
  obtain ⟨u, hu, huv⟩ := runOps_simulates (eventView_cycleStart p s).symm hv
  exact ⟨u, hu, huv.trans hvt⟩

theorem runCycles_cons_next {p : Pins} {ps : List Pins} {s t : State} :
    runCycles (p :: ps) s = .next t ↔ ∃ u, cycle p s = .next u ∧ runCycles ps u = .next t := by
  simp only [runCycles]
  cases cycle p s <;> simp

theorem carriedOps_cons_of {p : Pins} {s t : State} (h : cycle p s = .next t) (ps : List Pins) :
    carriedOps (p :: ps) s = decodePort (portWord s p) ++ carriedOps ps t := by
  simp [carriedOps, h]

/-- Settles O47, by induction on the run: the operations of the first cycle reach a state that looks like
the cycle's own at the event level, and from there the rest of the run is simulated. -/
theorem cyclesRefineEvents : Obligations.CyclesRefineEvents := by
  intro ps
  induction ps with
  | nil =>
    intro s t h
    cases h
    exact ⟨s, rfl, rfl⟩
  | cons p ps ih =>
    intro s t h
    obtain ⟨s1, hcycle, hrest⟩ := runCycles_cons_next.1 h
    obtain ⟨u1, hops, hview⟩ := cycle_refines hcycle
    obtain ⟨v, hv, hvt⟩ := ih s1 t hrest
    obtain ⟨u, hu, huv⟩ := runOps_simulates hview hv
    rw [carriedOps_cons_of hcycle]
    exact ⟨u, runOps_append_next.2 ⟨u1, hops, hu⟩, huv.trans hvt⟩

end Sys2Proof.Machine

/-! SUPPORT. The state of the block (10_state.md): its reset values (R48), the invariants that every
operation (R36, R38, R124) and every step of a run (R42, R43) keeps, and which operations write each
state element (R50). -/

namespace Sys2Proof.Machine

/-! ## Reset values (10_state.md R48) -/

theorem exec_reset (s : State) : exec .reset s = .next (resetBlock s) := rfl

/-- Settles O49: RESET is `resetBlock`, whose fields are the table's. -/
theorem resetLeavesTheTable : Obligations.ResetLeavesTheTable := by
  intro s
  have hcustom : ∀ i : Fin 13, customReset[i] = 0 := by decide
  exact ⟨resetBlock s, exec_reset s, rfl, rfl, fun _ => rfl, rfl, rfl, rfl, rfl, hcustom, rfl, rfl,
    rfl, rfl, rfl⟩

/-- Settles O42: a reset cycle brings the pins' history up to date and resets the block. -/
theorem resetCycleOutranksEverything : Obligations.ResetCycleOutranksEverything := by
  intro s p hrst hkept
  exact ⟨_, cycle_reset hrst hkept, rfl, rfl, rfl, rfl, rfl, rfl⟩

/-! ## Writers (10_state.md R50)

Read the other way round, the table of writers says what each operation leaves. -/

/-- What an operation other than RESET leaves: each row of the table of R50 as a frame; the pending
events belong to the agents. -/
structure OpFrame (i : Instr) (s t : State) : Prop where
  rx : runsReceiver i = false → t.rx = s.rx
  stored : runsPush i = false → t.rb.data = s.rb.data ∧ t.rb.wr = s.rb.wr
  rd : runsPop i = false → t.rb.rd = s.rb.rd
  size : runsPush i = false → runsPop i = false → t.rb.size = s.rb.size
  bt : runsTimer i = false → t.bt = s.bt
  custom : runsCmdLong i = false → t.custom = s.custom
  tx : runsTransmitter i = false → t.tx = s.tx
  trace : i ≠ .txStep → t.trace = s.trace
  sync : t.sync = s.sync
  agenda : t.agenda = s.agenda

theorem opFrame_refl (i : Instr) (s : State) : OpFrame i s s :=
  ⟨fun _ => rfl, fun _ => ⟨rfl, rfl⟩, fun _ => rfl, fun _ _ => rfl, fun _ => rfl, fun _ => rfl,
    fun _ => rfl, fun _ => rfl, rfl, rfl⟩

/-- The waveform being built is no element of the table. -/
theorem opFrame_emitSegs (i : Instr) (segs : List Segment) (s : State) :
    OpFrame i s (emitSegs segs s) :=
  { opFrame_refl i s with }

/-- The returned value is no element of the table: an operation that returns one has the frame of the
state it computes. -/
theorem settleWith_opFrame {α : Type} {wrap : α → Ret} {x : Except Fault (α × State)} {i : Instr}
    {s t : State} (hx : ∀ v u, x = .ok (v, u) → OpFrame i s u) (h : settleWith wrap x = .next t) :
    OpFrame i s t := by
  obtain ⟨v, u, hu, rfl⟩ := settleWith_next.1 h
  exact { hx v u hu with }

theorem pushByte_frame {s t : State} {b : Byte} (h : pushByte b s = .ok t) : t = s.setRb t.rb := by
  rcases pushByte_cases h with ⟨-, rfl⟩ | ⟨-, -, rfl⟩ <;> rfl

theorem pushByte_rd {s t : State} {b : Byte} (h : pushByte b s = .ok t) : t.rb.rd = s.rb.rd := by
  rcases pushByte_cases h with ⟨-, rfl⟩ | ⟨-, -, rfl⟩ <;> rfl

theorem onByteOp_rd {s t : State} {b : Byte} (h : onByteOp b s = .ok t) : t.rb.rd = s.rb.rd := by
  obtain ⟨u, hp, rfl⟩ := onByteOp_cases h
  exact pushByte_rd (t := u) hp

theorem sampleOp_rd {s t : State} {bit : Bool} (h : sampleOp bit s = .ok t) :
    t.rb.rd = s.rb.rd := by
  rcases sampleOp_cases h with ⟨-, rfl⟩ | ⟨-, hbyte⟩
  · rfl
  · simpa using onByteOp_rd hbyte

theorem pushByte_opFrame {s t : State} {b : Byte} (h : pushByte b s = .ok t) :
    OpFrame (.push b) s t := by
  have hrd := pushByte_rd h
  rw [pushByte_frame h]
  exact ⟨fun _ => rfl, nofun, fun _ => hrd, nofun, fun _ => rfl, fun _ => rfl, fun _ => rfl,
    fun _ => rfl, rfl, rfl⟩

/-- ON_BYTE, for itself and for BYTE_DONE. -/
theorem onByteOp_opFrame {i : Instr} {s t : State} {b : Byte} (hpush : runsPush i = true)
    (htimer : runsTimer i = true) (h : onByteOp b s = .ok t) : OpFrame i s t := by
  have hrd := onByteOp_rd h
  rw [onByteOp_frame h]
  exact ⟨fun _ => rfl, fun hn => absurd hn (ne_false_of_eq_true hpush), fun _ => hrd,
    fun hn => absurd hn (ne_false_of_eq_true hpush),
    fun hn => absurd hn (ne_false_of_eq_true htimer), fun _ => rfl, fun _ => rfl, fun _ => rfl,
    rfl, rfl⟩

theorem sampleOp_opFrame {s t : State} {bit : Bool} (h : sampleOp bit s = .ok t) :
    OpFrame (.sample bit) s t := by
  have hrd := sampleOp_rd h
  rw [sampleOp_frame h]
  exact ⟨nofun, nofun, fun _ => hrd, nofun, nofun, fun _ => rfl, fun _ => rfl, fun _ => rfl, rfl,
    rfl⟩

/-- An operation that only pops writes the buffer's read index and size, and the custom slot where it
runs CMD_LONG. -/
theorem popFrame_opFrame {i : Instr} {s t : State} (hpop : runsPop i = true)
    (hcustom : runsCmdLong i = false → t.custom = s.custom) (hf : PopFrame s t) :
    OpFrame i s t := by
  rw [hf]
  exact ⟨fun _ => rfl, fun _ => ⟨rfl, rfl⟩, fun hn => absurd hn (ne_false_of_eq_true hpop),
    fun _ hn => absurd hn (ne_false_of_eq_true hpop), fun _ => rfl, hcustom, fun _ => rfl,
    fun _ => rfl, rfl, rfl⟩

/-- FIRE, for itself and for ON_TICK. -/
theorem fireOp_opFrame {i : Instr} {s t : State} (hlong : runsCmdLong i = true)
    (hpop : runsPop i = true) (htimer : runsTimer i = true) (htx : runsTransmitter i = true)
    (h : fireOp s = .ok t) : OpFrame i s t := by
  rw [fireOp_frame h]
  exact ⟨fun _ => rfl, fun _ => ⟨rfl, rfl⟩, fun hn => absurd hn (ne_false_of_eq_true hpop),
    fun _ hn => absurd hn (ne_false_of_eq_true hpop),
    fun hn => absurd hn (ne_false_of_eq_true htimer),
    fun hn => absurd hn (ne_false_of_eq_true hlong),
    fun hn => absurd hn (ne_false_of_eq_true htx), fun _ => rfl, rfl, rfl⟩

theorem onTickOp_opFrame {s t : State} (h : onTickOp s = .ok t) : OpFrame .onTick s t := by
  rcases onTickOp_cases h with ⟨-, rfl⟩ | ⟨-, -, -, hfire⟩ | ⟨-, -, -, rfl⟩
  · exact opFrame_refl _ _
  · exact fireOp_opFrame rfl rfl rfl rfl hfire
  · exact { opFrame_refl .onTick s with bt := nofun }

theorem sendCommand_opFrame (cmd : Command) (s : State) :
    OpFrame (.send cmd) s (sendCommand cmd s) := by
  rw [sendCommand_frame]
  exact { opFrame_refl (.send cmd) s with tx := nofun }

theorem stepTx_opFrame {s t : State} (h : stepTx s = .ok t) : OpFrame .txStep s t := by
  rcases stepTx_cases h with ⟨-, rfl⟩ | ⟨-, seg, rest, -, rfl⟩
  · exact opFrame_refl _ _
  · exact { opFrame_refl .txStep s with tx := nofun, trace := fun hn => absurd rfl hn }

theorem exec_opFrame {i : Instr} {s t : State} (h : exec i s = .next t) (hreset : i ≠ .reset) :
    OpFrame i s t := by
  cases i with
  | sample bit => exact sampleOp_opFrame (settle_next.1 h)
  | byteDone b => exact onByteOp_opFrame rfl rfl (settle_next.1 h)
  | deselect => cases h; exact { opFrame_refl .deselect s with rx := nofun }
  | push b => exact pushByte_opFrame (settle_next.1 h)
  | pop =>
    refine settleWith_opFrame (fun _ _ hp => ?_) h
    obtain ⟨hf, hcustom⟩ := popFrame_of_pop hp
    exact popFrame_opFrame rfl (fun _ => hcustom) hf
  | isEmpty => cases h; exact { opFrame_refl .isEmpty s with }
  | isFull => cases h; exact { opFrame_refl .isFull s with }
  | onByte b => exact onByteOp_opFrame rfl rfl (settle_next.1 h)
  | btRestart => cases h; exact { opFrame_refl .btRestart s with bt := nofun }
  | onTick => exact onTickOp_opFrame (settle_next.1 h)
  | fire => exact fireOp_opFrame rfl rfl rfl rfl (settle_next.1 h)
  | decode =>
    refine settleWith_opFrame (fun _ _ hd => ?_) h
    obtain ⟨-, hf, -⟩ := decodeCommand_cases hd
    exact popFrame_opFrame rfl nofun hf
  | cmdShort sel =>
    refine settleWith_opFrame (fun _ _ hd => ?_) h
    obtain ⟨-, -, hf, hcustom, -⟩ := shortCommand_cases hd
    exact popFrame_opFrame rfl (fun _ => hcustom) hf
  | cmdLong =>
    refine settleWith_opFrame (fun _ _ hd => ?_) h
    obtain ⟨-, -, -, hf, -⟩ := longCommand_cases hd
    exact popFrame_opFrame rfl nofun hf
  | emitZero => cases h; exact opFrame_emitSegs _ _ s
  | emitOne => cases h; exact opFrame_emitSegs _ _ s
  | emitInit => cases h; exact opFrame_emitSegs _ _ s
  | emitEndGap => cases h; exact opFrame_emitSegs _ _ s
  | emitSbit0 => cases h; exact opFrame_emitSegs _ _ s
  | emitSbit1 => cases h; exact opFrame_emitSegs _ _ s
  | send cmd => cases h; exact sendCommand_opFrame cmd s
  | txStep => exact stepTx_opFrame (settle_next.1 h)
  | reset => exact absurd rfl hreset

/-- The output line is read off the transmitter. -/
theorem txOut_congr {s t : State} (h : t.tx = s.tx) : txOut t = txOut s := by
  simp [txOut, h]

/-- An operation that changes what it would otherwise leave is a writer. -/
theorem writer_of_change {writes : Bool} {kept : Prop} (hf : writes = false → kept) (h : ¬ kept) :
    writes = true :=
  Bool.of_not_eq_false (mt hf h)

/-- Settles O56: each clause is a clause of the operation's frame, contraposed. -/
theorem onlyTheListedWritersWrite : Obligations.OnlyTheListedWritersWrite := by
  intro i s t h hreset
  have hf := exec_opFrame h hreset
  have hsize : t.rb.size ≠ s.rb.size → runsPush i = true ∨ runsPop i = true := fun hne =>
    or_iff_not_imp_left.2 fun hpush =>
      writer_of_change (hf.size (Bool.eq_false_of_not_eq_true hpush)) hne
  exact ⟨writer_of_change hf.rx, fun hne => writer_of_change hf.stored (not_and_or.2 hne),
    writer_of_change hf.rd, hsize, writer_of_change hf.bt, writer_of_change hf.custom,
    writer_of_change hf.tx, writer_of_change fun hn => txOut_congr (hf.tx hn),
    not_imp_comm.1 hf.trace, hf.sync⟩

/-! ## The block's invariant (10_state.md R36, R38)

It speaks of the configuration, the buffer and the timer only. An operation leaves the timer alone or
clears its count, except that ON_TICK counts. -/

/-- A cleared count meets the timer's invariant, armed or not. -/
theorem timerInv_of_cleared {s : State} (hc : s.cfg.wellFormed = true) (h : s.bt.elapsed = 0) :
    TimerInv s := by
  obtain ⟨-, -, -, -, -, -, -, hth, -⟩ := wellFormed_facts hc
  exact ⟨by omega, fun _ => h⟩

theorem blockInv_of_ring {s t : State} (hi : BlockInv s) (hcfg : t.cfg = s.cfg) (hbt : t.bt = s.bt)
    (hr : RingInv t) : BlockInv t := by
  obtain ⟨hc, -, ht⟩ := hi
  refine ⟨hcfg ▸ hc, hr, ?_⟩
  unfold TimerInv at *
  rwa [hbt, hcfg]

theorem blockInv_of_cleared {s t : State} (hi : BlockInv s) (hcfg : t.cfg = s.cfg)
    (hbt : t.bt.elapsed = 0) (hr : RingInv t) : BlockInv t := by
  have hc : t.cfg.wellFormed = true := hcfg ▸ hi.1
  exact ⟨hc, hr, timerInv_of_cleared hc hbt⟩

theorem blockInv_congr {s t : State} (hi : BlockInv s) (hcfg : t.cfg = s.cfg) (hrb : t.rb = s.rb)
    (hbt : t.bt = s.bt) : BlockInv t :=
  blockInv_of_ring hi hcfg hbt (RingInv_congr hrb hcfg hi.2.1)

theorem pushByte_blockInv {s t : State} {b : Byte} (h : pushByte b s = .ok t) (hi : BlockInv s) :
    BlockInv t :=
  blockInv_of_ring hi (pushByte_cfg h) (by rw [pushByte_frame h]; rfl) (pushByte_keeps h hi.2.1)

theorem onByteOp_blockInv {s t : State} {b : Byte} (h : onByteOp b s = .ok t) (hi : BlockInv s) :
    BlockInv t :=
  blockInv_of_cleared hi (onByteOp_cfg h) (by rw [onByteOp_frame h]; rfl) (onByteOp_keeps h hi.2.1)

theorem sampleOp_blockInv {s t : State} {bit : Bool} (h : sampleOp bit s = .ok t)
    (hi : BlockInv s) : BlockInv t := by
  rcases sampleOp_cases h with ⟨-, rfl⟩ | ⟨-, hbyte⟩
  · exact blockInv_congr hi rfl rfl rfl
  · exact onByteOp_blockInv hbyte (blockInv_congr hi rfl rfl rfl)

/-- An operation that only pops keeps the block's invariant when it keeps the buffer's. -/
theorem popFrame_blockInv {s t : State} (hi : BlockInv s) (hf : PopFrame s t)
    (hr : RingInv s → RingInv t) : BlockInv t :=
  blockInv_of_ring hi hf.cfg (by rw [hf]; rfl) (hr hi.2.1)

theorem sendCommand_blockInv {s : State} (cmd : Command) (hi : BlockInv s) :
    BlockInv (sendCommand cmd s) := by
  rw [sendCommand_frame]
  exact blockInv_congr hi rfl rfl rfl

theorem disarmTimer_blockInv {s : State} (hi : BlockInv s) : BlockInv (disarmTimer s) :=
  blockInv_of_cleared hi rfl rfl hi.2.1

theorem fireOp_blockInv {s t : State} (h : fireOp s = .ok t) (hi : BlockInv s) : BlockInv t := by
  obtain ⟨cmd, u, hd, rfl⟩ := fireOp_cases h
  obtain ⟨-, hf, hr⟩ := decodeCommand_cases hd
  exact sendCommand_blockInv cmd (popFrame_blockInv (disarmTimer_blockInv hi) hf hr)

/-- A tick that does not fire leaves the count below TH, because the count was below it and the tick
would fire at TH. -/
theorem onTickOp_blockInv {s t : State} (h : onTickOp s = .ok t) (hi : BlockInv s) :
    BlockInv t := by
  rcases onTickOp_cases h with ⟨-, rfl⟩ | ⟨-, -, -, hfire⟩ | ⟨harmed, -, hne, rfl⟩
  · exact hi
  · exact fireOp_blockInv hfire hi
  · obtain ⟨hc, hr, hlt, -⟩ := hi
    refine ⟨hc, hr, ?_, fun hoff => ?_⟩
    · exact Nat.lt_of_le_of_ne hlt hne
    · simp [harmed] at hoff

theorem stepTx_blockInv {s t : State} (h : stepTx s = .ok t) (hi : BlockInv s) : BlockInv t := by
  rcases stepTx_cases h with ⟨-, rfl⟩ | ⟨-, seg, rest, -, rfl⟩
  · exact hi
  · exact blockInv_congr hi rfl rfl rfl

theorem resetBlock_blockInv {s : State} (hc : s.cfg.wellFormed = true) :
    BlockInv (resetBlock s) := by
  obtain ⟨-, -, -, -, -, -, hcap, -⟩ := wellFormed_facts hc
  exact ⟨hc, ⟨rfl, nofun, Nat.zero_le _, hcap, hcap, (Nat.zero_mod _).symm⟩,
    timerInv_of_cleared hc rfl⟩

theorem settleWith_blockInv {α : Type} {wrap : α → Ret} {x : Except Fault (α × State)} {t : State}
    (hx : ∀ v u, x = .ok (v, u) → BlockInv u) (h : settleWith wrap x = .next t) : BlockInv t := by
  obtain ⟨v, u, hu, rfl⟩ := settleWith_next.1 h
  exact blockInv_congr (hx v u hu) rfl rfl rfl

theorem exec_blockInv {i : Instr} {s t : State} (hi : BlockInv s) (h : exec i s = .next t) :
    BlockInv t := by
  cases i with
  | sample bit => exact sampleOp_blockInv (settle_next.1 h) hi
  | byteDone b => exact onByteOp_blockInv (settle_next.1 h) hi
  | deselect => cases h; exact blockInv_congr hi rfl rfl rfl
  | push b => exact pushByte_blockInv (settle_next.1 h) hi
  | pop =>
    exact settleWith_blockInv
      (fun _ _ hp => popFrame_blockInv hi (popFrame_of_pop hp).1 (popByte_keeps hp)) h
  | isEmpty => cases h; exact blockInv_congr hi rfl rfl rfl
  | isFull => cases h; exact blockInv_congr hi rfl rfl rfl
  | onByte b => exact onByteOp_blockInv (settle_next.1 h) hi
  | btRestart => cases h; exact blockInv_of_cleared hi rfl rfl hi.2.1
  | onTick => exact onTickOp_blockInv (settle_next.1 h) hi
  | fire => exact fireOp_blockInv (settle_next.1 h) hi
  | decode =>
    refine settleWith_blockInv (fun _ _ hd => ?_) h
    obtain ⟨-, hf, hr⟩ := decodeCommand_cases hd
    exact popFrame_blockInv hi hf hr
  | cmdShort sel =>
    refine settleWith_blockInv (fun _ _ hd => ?_) h
    obtain ⟨-, -, hf, -, hr⟩ := shortCommand_cases hd
    exact popFrame_blockInv hi hf hr
  | cmdLong =>
    refine settleWith_blockInv (fun _ _ hd => ?_) h
    obtain ⟨-, -, -, hf, hr⟩ := longCommand_cases hd
    exact popFrame_blockInv hi hf hr
  | emitZero => cases h; exact blockInv_congr hi rfl rfl rfl
  | emitOne => cases h; exact blockInv_congr hi rfl rfl rfl
  | emitInit => cases h; exact blockInv_congr hi rfl rfl rfl
  | emitEndGap => cases h; exact blockInv_congr hi rfl rfl rfl
  | emitSbit0 => cases h; exact blockInv_congr hi rfl rfl rfl
  | emitSbit1 => cases h; exact blockInv_congr hi rfl rfl rfl
  | send cmd => cases h; exact sendCommand_blockInv cmd hi
  | txStep => exact stepTx_blockInv (settle_next.1 h) hi
  | reset => cases h; exact resetBlock_blockInv hi.1

/-- Settles O52, operation by operation. -/
theorem everyOperationKeepsTheBlockInvariant :
    Obligations.EveryOperationKeepsTheBlockInvariant :=
  fun _ _ _ => exec_blockInv

/-! ## The transmitter's invariant (10_state.md R42, R43) -/

theorem txInv_congr {s t : State} (hi : TxInv s) (hcfg : t.cfg = s.cfg)
    (hcustom : t.custom = s.custom) (htx : t.tx = s.tx) : TxInv t := by
  unfold TxInv at *
  rwa [htx, hcfg, waveOf_congr hcfg hcustom]

theorem txInv_of_inactive {s : State} (ha : s.tx.active = false) (hw : s.tx.wave = []) :
    TxInv s :=
  ⟨fun _ => hw, fun h => by simp [ha] at h⟩

/-- FIRE may write the custom slot, of which a waveform in progress may be made, so it must not find a
send in progress. -/
theorem fireOp_txInv {s t : State} (hc : s.cfg.wellFormed = true) (ha : s.tx.active = false)
    (h : fireOp s = .ok t) (hi : TxInv s) : TxInv t := by
  obtain ⟨cmd, u, hd, rfl⟩ := fireOp_cases h
  obtain ⟨-, hf, -⟩ := decodeCommand_cases hd
  have htx : u.tx = s.tx := by rw [hf]; rfl
  have hidle : TxInv u := txInv_of_inactive (htx ▸ ha) (htx ▸ hi.1 ha)
  have hcfg : u.cfg = s.cfg := hf.cfg
  exact sendCommand_keeps (hcfg ▸ hc) (.inl hidle)

theorem onTickOp_txInv {s t : State} (hc : s.cfg.wellFormed = true) (h : onTickOp s = .ok t)
    (hi : TxInv s) : TxInv t := by
  rcases onTickOp_cases h with ⟨-, rfl⟩ | ⟨-, ha, -, hfire⟩ | ⟨-, -, -, rfl⟩
  · exact hi
  · exact fireOp_txInv hc ha hfire hi
  · exact txInv_congr hi rfl rfl rfl

theorem resetBlock_txInv (s : State) : TxInv (resetBlock s) := txInv_of_inactive rfl rfl

/-- An operation that writes neither the transmitter nor the custom slot. -/
theorem exec_txInv_of_frame {i : Instr} {s t : State} (h : exec i s = .next t)
    (hreset : i ≠ .reset) (htx : runsTransmitter i = false) (hlong : runsCmdLong i = false)
    (hi : TxInv s) : TxInv t := by
  have hf := exec_opFrame h hreset
  exact txInv_congr hi (exec_cfg h) (hf.custom hlong) (hf.tx htx)

/-- The agents' operations keep the transmitter's invariant. CMD_LONG run on its own need not: it may
change the profile of a waveform in progress. -/
theorem exec_txInv {i : Instr} {s t : State} (ha : agentOp i = true)
    (hc : s.cfg.wellFormed = true) (h : exec i s = .next t) (hi : TxInv s) : TxInv t := by
  cases i with
  | sample bit => exact exec_txInv_of_frame h nofun rfl rfl hi
  | deselect => exact exec_txInv_of_frame h nofun rfl rfl hi
  | onTick => exact onTickOp_txInv hc (settle_next.1 h) hi
  | txStep => exact stepTx_keeps hc (settle_next.1 h) hi
  | reset => cases h; exact resetBlock_txInv s
  | _ => exact absurd ha Bool.false_ne_true

/-- Inside a segment the counter may count one cycle down. -/
theorem countDown_txInv {s : State} (hcnt : 1 < s.tx.cnt) (hi : TxInv s) :
    TxInv (s.setTx { s.tx with cnt := s.tx.cnt - 1 }) := by
  refine ⟨hi.1, fun ha => ?_⟩
  obtain ⟨hsel, hne, hwave, -, hle⟩ := hi.2 ha
  exact ⟨hsel, hne, hwave, Nat.le_sub_one_of_lt hcnt, (Nat.sub_le _ _).trans hle⟩

/-! ## The invariant of a run -/

theorem resetBlock_runInv {s : State} (hc : s.cfg.wellFormed = true)
    (ha : s.agenda.all agentEvent = true) : RunInv (resetBlock s) :=
  ⟨resetBlock_blockInv hc, resetBlock_txInv s, ha⟩

/-- Settles O51: the state after reset is its own reset, with nothing pending. -/
theorem resetMeetsTheRunInvariant : Obligations.ResetMeetsTheRunInvariant := by
  have hreset : ∀ c : Config, c.wellFormed = true → RunInv (State.resetOf c) :=
    fun c hc => resetBlock_runInv (s := State.resetOf c) hc rfl
  exact ⟨hreset, hreset Config.tc (by decide)⟩

theorem runInv_congr {s t : State} (hi : RunInv s) (hcfg : t.cfg = s.cfg) (hrb : t.rb = s.rb)
    (hbt : t.bt = s.bt) (hcustom : t.custom = s.custom) (htx : t.tx = s.tx)
    (hagenda : t.agenda = s.agenda) : RunInv t := by
  obtain ⟨hblock, htransmit, hevents⟩ := hi
  exact ⟨blockInv_congr hblock hcfg hrb hbt, txInv_congr htransmit hcfg hcustom htx,
    hagenda ▸ hevents⟩

/-- With the oldest entry taken off the agenda, which is an agent's, the invariant still holds. -/
theorem runInv_uncons {s : State} {e : Event} {rest : List Event} (hi : RunInv s)
    (h : s.agenda = e :: rest) : agentEvent e = true ∧ RunInv (s.setAgenda rest) := by
  obtain ⟨hblock, htransmit, hevents⟩ := hi
  rw [h, List.all_cons, Bool.and_eq_true] at hevents
  exact ⟨hevents.1, blockInv_congr hblock rfl rfl rfl, txInv_congr htransmit rfl rfl rfl,
    hevents.2⟩

theorem exec_agenda {i : Instr} {s t : State} (h : exec i s = .next t) : t.agenda = s.agenda := by
  by_cases hreset : i = .reset
  · subst hreset
    cases h
    rfl
  · exact (exec_opFrame h hreset).agenda

theorem exec_runInv {i : Instr} {s t : State} (ha : agentOp i = true) (hi : RunInv s)
    (h : exec i s = .next t) : RunInv t := by
  obtain ⟨hblock, htransmit, hevents⟩ := hi
  exact ⟨exec_blockInv hblock h, exec_txInv ha hblock.1 h htransmit, exec_agenda h ▸ hevents⟩

theorem runOps_runInv {is : List Instr} {s t : State} (ha : ∀ i ∈ is, agentOp i = true)
    (hi : RunInv s) (h : runOps is s = .next t) : RunInv t := by
  induction is generalizing s with
  | nil => cases h; exact hi
  | cons i is ih =>
    obtain ⟨u, hu, ht⟩ := runOps_cons_next.1 h
    rw [List.forall_mem_cons] at ha
    exact ih ha.2 (exec_runInv ha.1 hi hu) ht

/-- BYTE at the byte abstraction is BYTE_DONE with the receiver as the eight samples leave it. -/
theorem byteOp_next {b : Byte} {s t : State} (h : byteOp b s = .next t) :
    exec (.byteDone b) (s.setRx { shift := b, count := 0 }) = .next t := by
  unfold byteOp at h
  split at h
  · exact h
  · cases h

theorem byteOp_runInv {b : Byte} {s t : State} (hi : RunInv s) (h : byteOp b s = .next t) :
    RunInv t := by
  have hbyte := byteOp_next h
  obtain ⟨hblock, htransmit, hevents⟩ : RunInv (s.setRx { shift := b, count := 0 }) :=
    runInv_congr hi rfl rfl rfl rfl rfl rfl
  exact ⟨exec_blockInv hblock hbyte, exec_txInv_of_frame hbyte nofun rfl rfl htransmit,
    exec_agenda hbyte ▸ hevents⟩

theorem stepWait_runInv {rest : List Event} {s t : State} (hi : RunInv s)
    (ha : s.agenda = .waitTx :: rest) (h : stepWait rest s = .next t) : RunInv t := by
  unfold stepWait at h
  split at h
  · exact exec_runInv rfl hi h
  · cases h
    exact (runInv_uncons hi ha).2

/-! ### Cycles -/

theorem cycle_timingKept {p : Pins} {s t : State} (h : cycle p s = .next t) :
    timingKept s.cfg.sampleEdge s.mon p = true := by
  unfold cycle at h
  split at h
  · assumption
  · cases h

theorem receiverOps_agentOp {w : PortWord} {i : Instr} (h : i ∈ receiverOps w) :
    agentOp i = true := by
  unfold receiverOps at h
  split_ifs at h
  · rw [List.mem_singleton.1 h]; rfl
  · rw [List.mem_singleton.1 h]; rfl
  · cases h

/-- The tick's and the sequencer's part of a cycle: at most one operation. -/
theorem agentOp_of_mem_ite {b : Bool} {i j : Instr} (hj : agentOp j = true)
    (h : i ∈ if b then [j] else []) : agentOp i = true := by
  split at h
  · rwa [List.mem_singleton.1 h]
  · cases h

/-- Inside a segment the operations of a cycle leave the transmitter alone: a tick is ignored during a
send, and TX_STEP comes only in the segment's last cycle. -/
theorem tx_inside_segment {p : Pins} {s s1 s2 s3 : State} (ha : s.tx.active = true)
    (hcnt : 1 < s.tx.cnt)
    (h1 : runOps (receiverOps (portWord s p)) (cycleStart p s) = .next s1)
    (h2 : runOps (if p.tick && !byteEvent (portWord s p) then [.onTick] else []) s1 = .next s2)
    (h3 : runOps (if (portWord s p).segEnd then [.txStep] else []) s2 = .next s3) :
    s3.tx = s.tx := by
  have htx1 : s1.tx = s.tx := by rw [receiver_frame h1]; rfl
  have htx2 : s2 = s1 := by
    rcases tick_cases h2 with ⟨-, htick⟩ | ⟨-, rfl⟩
    · rw [onTickOp_active (by rw [htx1, ha])] at htick
      exact (Except.ok.inj htick).symm
    · rfl
  have hsegEnd : (portWord s p).segEnd = false := by
    simp [portWord, Nat.not_le.2 hcnt]
  rcases segEnd_cases h3 with ⟨hend, -⟩ | ⟨-, rfl⟩
  · simp [hsegEnd] at hend
  · rw [htx2, htx1]

theorem countCycle_runInv {before s : State} (hi : RunInv s)
    (htx : before.tx.active = true → 1 < before.tx.cnt → s.tx = before.tx) :
    RunInv (countCycle before s) := by
  unfold countCycle
  split
  · rename_i hinside
    rw [Bool.and_eq_true, decide_eq_true_eq] at hinside
    obtain ⟨hblock, htransmit, hevents⟩ := hi
    have hcnt : 1 < s.tx.cnt := by rw [htx hinside.1 hinside.2]; exact hinside.2
    exact ⟨blockInv_congr hblock rfl rfl rfl, countDown_txInv hcnt htransmit, hevents⟩
  · exact hi

theorem cycle_runInv {p : Pins} {s t : State} (hi : RunInv s) (h : cycle p s = .next t) :
    RunInv t := by
  have hstart : RunInv (cycleStart p s) := runInv_congr hi rfl rfl rfl rfl rfl rfl
  cases hrst : p.rst with
  | true =>
    rw [cycle_reset hrst (cycle_timingKept h)] at h
    cases h
    exact resetBlock_runInv hstart.1.1 hstart.2.2
  | false =>
    obtain ⟨-, s1, s2, s3, h1, h2, h3, rfl⟩ := cycle_cases hrst h
    have hi1 : RunInv s1 := runOps_runInv (fun _ => receiverOps_agentOp) hstart h1
    have hi2 : RunInv s2 := runOps_runInv (fun _ => agentOp_of_mem_ite rfl) hi1 h2
    have hi3 : RunInv s3 := runOps_runInv (fun _ => agentOp_of_mem_ite rfl) hi2 h3
    have hcount : RunInv (countCycle s s3) :=
      countCycle_runInv hi3 fun ha hcnt => tx_inside_segment ha hcnt h1 h2 h3
    exact runInv_congr hcount rfl rfl rfl rfl rfl rfl

/-! ### Steps -/

theorem stepAgenda_runInv {s t : State} (hi : RunInv s) (h : stepAgenda s = .next t) :
    RunInv t := by
  cases ha : s.agenda with
  | nil =>
    rw [stepAgenda_nil ha] at h
    exact exec_runInv rfl hi h
  | cons e rest =>
    obtain ⟨hagent, hrest⟩ := runInv_uncons hi ha
    cases e with
    | op i =>
      rw [stepAgenda_op ha] at h
      exact exec_runInv hagent hrest (stepOp_next h)
    | byte b =>
      rw [stepAgenda_byte ha] at h
      exact byteOp_runInv hrest h
    | waitTx =>
      rw [stepAgenda_waitTx ha] at h
      exact stepWait_runInv hi ha h
    | cycle p =>
      rw [stepAgenda_cycle ha] at h
      exact cycle_runInv hrest h

/-- Settles O53, by the kind of the oldest entry of the agenda. -/
theorem everyStepKeepsTheRunInvariant : Obligations.EveryStepKeepsTheRunInvariant := by
  intro s t hi h
  rw [step_of_wellFormed hi.1.1] at h
  exact stepAgenda_runInv hi h

end Sys2Proof.Machine

/-! SUPPORT. Encodings (30_encoding.md): the PayloadValues of a byte (R84), the wire forms' round trip
(R82, R83), burst words bit by bit (R80), and the lines of a stimulus (R91). -/

namespace Sys2Proof.Machine

/-! ## PayloadValues of a byte (30_encoding.md R84) -/

/-- A PayloadValue of a byte that is cut out of a longer word is a bit pair of that word. -/
theorem pv_extractLsb' {n : Nat} (W : BitVec n) (start : Nat) {k : Nat} (hk : k < 4) :
    pv (W.extractLsb' start 8) k = W.extractLsb' (start + (6 - 2 * k)) 2 := by
  ext i hi
  simp only [pv, BitVec.getElem_extractLsb', BitVec.getLsbD_extractLsb']
  rw [decide_eq_true (by omega), Bool.true_and, Nat.add_assoc]

theorem pv_eq_of_toNat {b : Byte} {k : Nat} {v : PV} (h : b.toNat / 2 ^ (6 - 2 * k) % 4 = v.toNat) :
    pv b k = v := by
  apply BitVec.eq_of_toNat_eq
  rw [← h, pv, BitVec.extractLsb'_toNat, Nat.shiftRight_eq_div_pow]

theorem toNat_append_eq_add {m n : Nat} (x : BitVec m) (y : BitVec n) :
    (x ++ y).toNat = x.toNat * 2 ^ n + y.toNat := by
  rw [BitVec.toNat_append, ← Nat.shiftLeft_add_eq_or_of_lt y.isLt, Nat.shiftLeft_eq]

/-- The packed byte has the value that R91 computes of the four PayloadValues. -/
theorem toNat_packPvs (v0 v1 v2 v3 : PV) :
    (packPvs v0 v1 v2 v3).toNat
      = v0.toNat * 64 + v1.toNat * 16 + v2.toNat * 4 + v3.toNat := by
  simp only [packPvs, toNat_append_eq_add]
  omega

theorem packPvs_eq_ofNat (v0 v1 v2 v3 : PV) :
    packPvs v0 v1 v2 v3
      = BitVec.ofNat 8 (v0.toNat * 64 + v1.toNat * 16 + v2.toNat * 4 + v3.toNat) := by
  rw [← toNat_packPvs, BitVec.ofNat_toNat, BitVec.setWidth_eq]

@[simp] theorem pv_packPvs_zero (v0 v1 v2 v3 : PV) : pv (packPvs v0 v1 v2 v3) 0 = v0 :=
  pv_eq_of_toNat (by rw [toNat_packPvs]; omega)

@[simp] theorem pv_packPvs_one (v0 v1 v2 v3 : PV) : pv (packPvs v0 v1 v2 v3) 1 = v1 :=
  pv_eq_of_toNat (by rw [toNat_packPvs]; omega)

@[simp] theorem pv_packPvs_two (v0 v1 v2 v3 : PV) : pv (packPvs v0 v1 v2 v3) 2 = v2 :=
  pv_eq_of_toNat (by rw [toNat_packPvs]; omega)

@[simp] theorem pv_packPvs_three (v0 v1 v2 v3 : PV) : pv (packPvs v0 v1 v2 v3) 3 = v3 :=
  pv_eq_of_toNat (by rw [toNat_packPvs]; omega)

/-- The four PayloadValues of a byte are adjacent and cover it. -/
@[simp] theorem packPvs_pv (b : Byte) : packPvs (pv b 0) (pv b 1) (pv b 2) (pv b 3) = b := by
  have htop4 : pv b 0 ++ pv b 1 = b.extractLsb' 4 4 :=
    BitVec.extractLsb'_append_extractLsb'_eq_extractLsb' rfl
  have htop6 : pv b 0 ++ pv b 1 ++ pv b 2 = b.extractLsb' 2 6 := by
    rw [htop4]; exact BitVec.extractLsb'_append_extractLsb'_eq_extractLsb' rfl
  rw [packPvs, htop6]
  exact BitVec.extractLsb'_append_extractLsb' (w := 6) (len := 2)

/-! ## The wire forms (30_encoding.md R81 to R83) -/

theorem decodeBurst_short {b0 : Byte} (h : b0 ≠ 0) (rest : List Byte) :
    decodeBurst (b0 :: rest) = (.cmdShort b0, rest) :=
  if_neg h

theorem decodeBurst_long (rest : List Byte) : decodeBurst (0 :: rest) = (.cmdLong, rest) := rfl

theorem decodeShort_packPvs (f : ShortForm) :
    decodeShort f.sel (packPvs f.rsv f.group f.device f.state) = f := by
  simp [decodeShort]

theorem encodeShort_decodeShort (b0 b1 : Byte) : encodeShort (decodeShort b0 b1) = [b0, b1] := by
  simp [encodeShort, decodeShort]

/-- The 13 identity values are read back from the bytes that pack them, slot 12 from the top of the
last one. -/
theorem identOfBytes_packPvs (r : Identity) (g d s : PV) :
    identOfBytes (packPvs r[0] r[1] r[2] r[3]) (packPvs r[4] r[5] r[6] r[7])
      (packPvs r[8] r[9] r[10] r[11]) (packPvs r[12] g d s) = r := by
  ext k hk : 1
  simp only [identOfBytes, pv_packPvs_zero, pv_packPvs_one, pv_packPvs_two, pv_packPvs_three]
  interval_cases k <;> rfl

theorem decodeLong_packPvs (f : LongForm) :
    decodeLong (packPvs f.ident[0] f.ident[1] f.ident[2] f.ident[3])
      (packPvs f.ident[4] f.ident[5] f.ident[6] f.ident[7])
      (packPvs f.ident[8] f.ident[9] f.ident[10] f.ident[11])
      (packPvs f.ident[12] f.group f.device f.state) = f := by
  simp [decodeLong, identOfBytes_packPvs]

theorem encodeLong_decodeLong (b1 b2 b3 b4 : Byte) :
    encodeLong (decodeLong b1 b2 b3 b4) = [0, b1, b2, b3, b4] := by
  simp [encodeLong, decodeLong, identOfBytes]

/-! ## Operations and their encodings (30_encoding.md R88, R92) -/

/-- The cycle that carries one port event decodes to that event alone. -/
theorem decodePort_encodePort {i : Instr} {w : PortWord} (h : encodePort i = some w) :
    decodePort w = [i] := by
  cases i with
  | sample bit => exact (Laws.PortOps.sample bit).2 w h
  | deselect => exact Laws.PortOps.deselect.2 w h
  | onTick => exact Laws.PortOps.onTick.2 w h
  | txStep => exact Laws.PortOps.txStep.2 w h
  | reset => exact Laws.PortOps.reset.2 w h
  | _ => cases h

theorem decode_port_encodePort {i : Instr} {e : Encoding}
    (h : (encodePort i).map Encoding.port = some e) : decode e = [i] := by
  obtain ⟨w, hw, rfl⟩ := Option.map_eq_some_iff.1 h
  exact decodePort_encodePort hw

/-- Decoding undoes encoding, by the kind of encoding that the opcode table gives the operation. -/
theorem decode_encode {i : Instr} {operands : List Byte} {e : Encoding}
    (hi : i.wellFormed = true) (h : encode i operands = some e) : decode e = [i] := by
  cases i with
  | cmdShort sel =>
    cases h
    have hsel : sel ≠ 0 := by simpa [Instr.wellFormed] using hi
    rw [decode, decodeBurst_short hsel]
  | cmdLong => cases h; rfl
  | sample bit => exact decode_port_encodePort h
  | deselect => exact decode_port_encodePort h
  | onTick => exact decode_port_encodePort h
  | txStep => exact decode_port_encodePort h
  | reset => exact decode_port_encodePort h
  | emitZero => cases h; rfl
  | emitOne => cases h; rfl
  | emitInit => cases h; rfl
  | emitEndGap => cases h; rfl
  | emitSbit0 => cases h; rfl
  | emitSbit1 => cases h; rfl
  | _ => cases h

/-- Settles O7: operations by the kind of their encoding, wire forms because packing four PayloadValues
and reading them are inverse to each other. -/
theorem encodeDecodeRoundTrip : Obligations.EncodeDecodeRoundTrip := by
  refine ⟨fun _ _ _ => decode_encode, fun f hf => ?_, fun f => ?_, encodeShort_decodeShort,
    encodeLong_decodeLong⟩
  · have hsel : f.sel ≠ 0 := by simpa [ShortForm.wellFormed] using hf
    exact ⟨_, rfl, decodeBurst_short hsel _, decodeShort_packPvs f⟩
  · exact ⟨_, _, _, _, rfl, decodeBurst_long _, decodeLong_packPvs f⟩

/-! ## Burst words bit by bit (30_encoding.md R80) -/

/-- Byte k of a burst word of n bits is W[n-8k-1 : n-8(k+1)]: the first byte on the wire is the top one. -/
theorem bytesOfWord_toNat {n : Nat} (W : BitVec n) :
    bytesOfWord n W.toNat = (List.range (n / 8)).map (fun k => W.extractLsb' (n - 8 * (k + 1)) 8) :=
  rfl

theorem decodeTableWord_of_bytes {n w : Nat} {b0 : Byte} {rest : List Byte}
    (h : bytesOfWord n w = b0 :: rest) :
    decodeTableWord n w = some (decodeBurst (b0 :: rest)).1 := by
  simp [decodeTableWord, h]

/-- The two bytes of a short word. -/
theorem bytesOfWord_16 (W : BitVec 16) :
    bytesOfWord 16 W.toNat = [W.extractLsb' 8 8, W.extractLsb' 0 8] :=
  bytesOfWord_toNat W

/-- The five bytes of a long word. -/
theorem bytesOfWord_40 (W : BitVec 40) :
    bytesOfWord 40 W.toNat = [W.extractLsb' 32 8, W.extractLsb' 24 8, W.extractLsb' 16 8,
      W.extractLsb' 8 8, W.extractLsb' 0 8] :=
  bytesOfWord_toNat W

/-- Settles O5: the second byte is W[7:0], whose PayloadValues are bit pairs of W. -/
theorem shortWordFields : Obligations.ShortWordFields := by
  intro W hsel
  refine ⟨?_, _, _, bytesOfWord_16 W, ?_⟩
  · rw [decodeTableWord_of_bytes (bytesOfWord_16 W), decodeBurst_short hsel]
  · simp [decodeShort, pv_extractLsb']

/-- The identity values of a long word's bytes are the word's bit pairs from bit 31 down (R83). -/
theorem identOfBytes_extractLsb' (W : BitVec 40) (k : Fin 13) :
    (identOfBytes (W.extractLsb' 24 8) (W.extractLsb' 16 8) (W.extractLsb' 8 8)
      (W.extractLsb' 0 8))[k] = W.extractLsb' (30 - 2 * k.val) 2 := by
  simp only [identOfBytes, pv_extractLsb' W, Nat.reduceLT]
  fin_cases k <;> rfl

/-- Settles O6: the bytes after the first are W[31:24] to W[7:0], whose PayloadValues are bit pairs of
W. -/
theorem longWordFields : Obligations.LongWordFields := by
  intro W hzero
  have hbytes := bytesOfWord_40 W
  rw [hzero] at hbytes
  refine ⟨?_, _, _, _, _, hbytes, identOfBytes_extractLsb' W, ?_⟩
  · rw [decodeTableWord_of_bytes hbytes, decodeBurst_long]
  · simp [decodeLong, pv_extractLsb']

/-! ## The lines of a stimulus (30_encoding.md R91) -/

/-- A byte is sent bit 7 first. -/
theorem bitsOfByte_eq (b : Byte) : bitsOfByte b = [7, 6, 5, 4, 3, 2, 1, 0].map b.getLsbD := rfl

theorem encodeShort_eq_ofNat (f : ShortForm) :
    encodeShort f = [f.sel, BitVec.ofNat 8
      (f.rsv.toNat * 64 + f.group.toNat * 16 + f.device.toNat * 4 + f.state.toNat)] := by
  rw [encodeShort, packPvs_eq_ofNat]

/-- Settles O8: SHORT and LONG are the bursts of their wire forms' bytes, which pack as R91 computes. -/
theorem pseudoInstructionBytes : Obligations.PseudoInstructionBytes := by
  intro c g d st
  refine ⟨fun sel _ => ?_, fun r => ?_, fun _ => rfl, fun b => ?_, rfl⟩
  · have hshort := encodeShort_eq_ofNat { sel := sel, rsv := 0, group := g, device := d, state := st }
    exact ⟨congrArg burstEvents hshort, hshort⟩
  · refine ⟨congrArg burstEvents ?hlong, ?hlong⟩
    simp only [encodeLong, packPvs_eq_ofNat]
  · simp [lineEvents, sampleEvents, bitsOfByte_eq]

/-! ## Written words -/

/-- Settles O4: each word is a closed term, which the decoder reads by computation. -/
theorem writtenWordsDecode : Obligations.WrittenWordsDecode := by
  unfold Obligations.WrittenWordsDecode
  decide

end Sys2Proof.Machine

/-! SUPPORT. The serial receiver (40_serial_receiver.md): one bit in (R100), a run of bits that completes
a byte (R100, R104) or falls short of one (R102), and the receiver's part of a cycle (R103). -/

namespace Sys2Proof.Machine

/-! ## One bit (40_serial_receiver.md R100) -/

theorem exec_sample_within {s : State} (bit : Bool) (h : s.rx.count ≠ 7) :
    exec (.sample bit) s
      = .next (s.setRx { shift := shiftIn s.rx.shift bit, count := s.rx.count + 1 }) :=
  congrArg settle (if_neg h)

theorem exec_sample_eighth {s : State} (bit : Bool) (h : s.rx.count = 7) :
    exec (.sample bit) s = exec (.byteDone (shiftIn s.rx.shift bit))
      (s.setRx { shift := shiftIn s.rx.shift bit, count := 0 }) :=
  congrArg settle (if_pos h)

/-- SAMPLE seen in the receiver alone: the count is modulo 8, so the eighth bit is no case of its own. -/
theorem exec_sample_rx {bit : Bool} {s t : State} (h : exec (.sample bit) s = .next t) :
    t.rx = { shift := shiftIn s.rx.shift bit, count := s.rx.count + 1 } := by
  rw [sampleOp_frame (settle_next.1 h)]
  rfl

theorem exec_deselect (s : State) : exec .deselect s = .next (s.setRx { shift := 0, count := 0 }) :=
  rfl

/-! ## Eight bits fill the shift register -/

theorem shiftIn_eq_shiftConcat (shift : Byte) (bit : Bool) :
    shiftIn shift bit = shift.shiftConcat bit := by
  apply BitVec.eq_of_toNat_eq
  rw [shiftIn_eq, BitVec.toNat_shiftConcat, Nat.shiftLeft_eq, BitVec.toNat_ofNat, Nat.mod_mod]

/-- On a byte cut out of a longer word, shifting in the word's next lower bit moves the cut down by
one. -/
theorem shiftIn_extractLsb' {n : Nat} (W : BitVec n) (start : Nat) :
    shiftIn (W.extractLsb' (start + 1) 8) (W.getLsbD start) = W.extractLsb' start 8 := by
  rw [shiftIn_eq_shiftConcat]
  ext i hi
  rw [BitVec.getElem_shiftConcat]
  cases i with
  | zero => simp
  | succ i => simp [Nat.add_comm, Nat.add_left_comm]

/-- With the first k bits of a byte shifted in, the register is the 8-bit cut, k places down, of the word
that the register's old value and the byte make. -/
theorem foldl_shiftIn_topBits (shift b : Byte) {k : Nat} (hk : k ≤ 8) :
    ((List.range k).map b.getMsbD).foldl shiftIn shift = (shift ++ b).extractLsb' (8 - k) 8 := by
  induction k with
  | zero => exact BitVec.extractLsb'_append_eq_left.symm
  | succ k ih =>
    have hlt : k < 8 := hk
    have hbit : b.getMsbD k = (shift ++ b).getLsbD (8 - (k + 1)) := by
      rw [BitVec.getLsbD_append, if_pos (by omega), BitVec.getMsbD_eq_getLsbD, decide_eq_true hlt,
        Bool.true_and, Nat.sub_sub, Nat.add_comm 1]
    rw [List.range_succ, List.map_append, List.foldl_append, ih hlt.le, List.map_singleton,
      List.foldl_cons, List.foldl_nil, hbit, show 8 - k = 8 - (k + 1) + 1 by omega,
      shiftIn_extractLsb']

theorem foldl_shiftIn_bitsOfByte (shift b : Byte) : (bitsOfByte b).foldl shiftIn shift = b :=
  (foldl_shiftIn_topBits shift b (Nat.le_refl 8)).trans BitVec.extractLsb'_append_eq_right

/-! ## A run of bits -/

/-- A run of operations whose first part answers a next state goes on from there. -/
theorem runOps_append_of {is : List Instr} {s u : State} (h : runOps is s = .next u)
    (js : List Instr) : runOps (is ++ js) s = runOps js u := by
  induction is generalizing s with
  | nil => cases h; rfl
  | cons i is ih =>
    obtain ⟨v, hv, hu⟩ := runOps_cons_next.1 h
    rw [List.cons_append, runOps_cons_of hv, ih hu]

/-- Samples that complete no byte shift in and count, and do nothing else. -/
theorem runOps_samples_within {bits : List Bool} {s : State}
    (h : s.rx.count.toNat + bits.length < 8) :
    runOps (bits.map Instr.sample) s = .next (s.setRx
      { shift := bits.foldl shiftIn s.rx.shift,
        count := s.rx.count + BitVec.ofNat 3 bits.length }) := by
  induction bits generalizing s with
  | nil => rw [List.length_nil, BitVec.add_zero]; rfl
  | cons bit bits ih =>
    rw [List.length_cons] at h
    have hwithin : s.rx.count ≠ 7 := by bv_omega
    have hcount : (s.rx.count + 1).toNat = s.rx.count.toNat + 1 := by bv_omega
    rw [List.map_cons, runOps_cons_of (exec_sample_within bit hwithin),
      ih (by rw [State.setRx_rx, hcount]; omega)]
    simp [BitVec.ofNat_add, BitVec.add_assoc, BitVec.add_comm 1#3]

/-- Samples of which the last is the eighth are BYTE_DONE of what has been shifted in. -/
theorem runOps_samples_eighth {bits : List Bool} {s : State} (bit : Bool)
    (h : s.rx.count.toNat + bits.length = 7) :
    runOps ((bits ++ [bit]).map Instr.sample) s
      = exec (.byteDone ((bits ++ [bit]).foldl shiftIn s.rx.shift))
          (s.setRx { shift := (bits ++ [bit]).foldl shiftIn s.rx.shift, count := 0 }) := by
  have hcount : s.rx.count + BitVec.ofNat 3 bits.length = 7 := by bv_omega
  rw [List.map_append, runOps_append_of (runOps_samples_within (by omega)), List.map_singleton,
    runOps_singleton, exec_sample_eighth bit hcount, List.foldl_append]
  rfl

/-- From a byte boundary the eight bits of a byte are its seven first, which only count, and the last,
which completes it. -/
theorem runOps_samples_byte {s : State} (b : Byte) (h : s.rx.count = 0) :
    runOps ((bitsOfByte b).map Instr.sample) s
      = exec (.byteDone b) (s.setRx { shift := b, count := 0 }) := by
  have hbits : bitsOfByte b = (List.range 7).map b.getMsbD ++ [b.getMsbD 7] := rfl
  have hrun := runOps_samples_eighth (s := s) (bits := (List.range 7).map b.getMsbD)
    (b.getMsbD 7) (by rw [h]; rfl)
  rwa [← hbits, foldl_shiftIn_bitsOfByte] at hrun

/-- Settles O9: the shift register's update is `shiftIn`, the eight bits are a run of seven that only
count and one that completes the byte, and a SAMPLE stops only where the PUSH of its byte would. -/
theorem sampleShiftsOneBit : Obligations.SampleShiftsOneBit := by
  intro s bit v
  have hv : v = shiftIn s.rx.shift bit := (shiftIn_eq _ _).symm
  rw [hv]
  refine ⟨exec_sample_within bit, exec_sample_eighth bit, runOps_samples_byte, fun hi => ?_⟩
  obtain ⟨t, ht⟩ := sampleOp_total bit hi
  exact ⟨t, settle_next.2 ht⟩

/-! ## BYTE at the byte abstraction (40_serial_receiver.md R104) -/

theorem byteOp_aligned {s : State} (b : Byte) (h : s.rx.count = 0) :
    byteOp b s = exec (.byteDone b) (s.setRx { shift := b, count := 0 }) :=
  if_pos h

/-- Settles O10: at a byte boundary both are BYTE_DONE of the byte, elsewhere BYTE is refused. -/
theorem byteAbstractionIsEightSamples : Obligations.ByteAbstractionIsEightSamples := by
  intro s b rest hc ha
  rw [step_of_wellFormed hc, stepAgenda_byte ha]
  refine ⟨fun h0 => ?_, byteOp_misaligned (s := s.setAgenda rest) b⟩
  have haligned : (s.setAgenda rest).rx.count = 0 := h0
  rw [byteOp_aligned b haligned, runOps_samples_byte b haligned]

/-! ## DESELECT (40_serial_receiver.md R102) -/

/-- Settles O11: samples that complete no byte write the receiver alone, and DESELECT overwrites it. -/
theorem deselectDiscardsPartialByte : Obligations.DeselectDiscardsPartialByte := by
  intro s
  refine ⟨exec_deselect s, fun bits h => ?_⟩
  rw [runOps_append_of (runOps_samples_within h), runOps_singleton, exec_deselect,
    State.setRx_setRx]

/-! ## The receiver in a cycle (40_serial_receiver.md R103) -/

theorem syncEdge_iff {s : State} : syncEdge s.cfg.sampleEdge s.sync = true ↔ syncSeesEdge s := by
  unfold syncEdge syncSeesEdge
  cases s.cfg.sampleEdge <;> simp

theorem receiverOps_of_deselected {w : PortWord} (h : w.ssn = true) :
    receiverOps w = [.deselect] :=
  if_pos h

theorem receiverOps_of_edge {w : PortWord} (hssn : w.ssn = false) (hedge : w.edge = true) :
    receiverOps w = [.sample w.sdi] := by
  simp [receiverOps, hssn, hedge]

theorem receiverOps_of_noEdge {w : PortWord} (hssn : w.ssn = false) (hedge : w.edge = false) :
    receiverOps w = [] := by
  simp [receiverOps, hssn, hedge]

theorem countCycle_rx (s u : State) : (countCycle s u).rx = u.rx := by
  unfold countCycle
  split <;> rfl

/-- A cycle shifts the synchronizer; the receiver ends it as the receiver's own operations leave it,
because neither a tick nor the end of a segment writes it. -/
theorem cycle_receiver {p : Pins} {s t : State} (hr : p.rst = false) (h : cycle p s = .next t) :
    t.sync = nextSync s.sync p ∧
      ∃ u, runOps (receiverOps (portWord s p)) (cycleStart p s) = .next u ∧ t.rx = u.rx := by
  obtain ⟨-, s1, s2, s3, h1, h2, h3, rfl⟩ := cycle_cases hr h
  have htick : s2.rx = s1.rx := by
    rcases tick_cases h2 with ⟨-, htick⟩ | ⟨-, rfl⟩
    · exact (onTickOp_opFrame htick).rx rfl
    · rfl
  have hsegEnd : s3.rx = s2.rx := by
    rcases segEnd_cases h3 with ⟨-, hstep⟩ | ⟨-, rfl⟩
    · exact (stepTx_opFrame hstep).rx rfl
    · rfl
  exact ⟨rfl, s1, h1, (countCycle_rx s s3).trans (hsegEnd.trans htick)⟩

/-- Settles O43: in each of the three cases the cycle carries one known receiver operation, or none. -/
theorem receiverFollowsTheSynchronizer : Obligations.ReceiverFollowsTheSynchronizer := by
  intro s t p hr h
  obtain ⟨hsync, u, hrun, hrx⟩ := cycle_receiver hr h
  rw [hrx]
  refine ⟨hsync, fun hss => ?_, fun hss hedge => ?_, fun hss hedge => ?_⟩
  · rw [receiverOps_of_deselected hss, runOps_singleton] at hrun
    cases hrun
    rfl
  · rw [receiverOps_of_edge hss (syncEdge_iff.2 hedge), runOps_singleton] at hrun
    rw [exec_sample_rx hrun]
    exact ⟨rfl, shiftIn_eq _ _⟩
  · rw [receiverOps_of_noEdge hss (Bool.eq_false_iff.2 (mt syncEdge_iff.1 hedge))] at hrun
    cases hrun
    rfl

end Sys2Proof.Machine

/-! SUPPORT. The ReceiveBuffer (41_receive_buffer.md): its operations run on their own (R120 to R122), the
FIFO law of their runs (R123), and what the operations that store, that pop, and that do neither leave
unchanged (10_state.md R50). -/

namespace Sys2Proof.Machine

/-! ## PUSH (41_receive_buffer.md R120) -/

theorem exec_push_full {s : State} (b : Byte) (h : s.rb.size = s.cfg.capacity) :
    exec (.push b) s = .next s :=
  settle_next.2 (pushByte_full h)

theorem exec_push_room {s : State} (b : Byte) (h : s.rb.size ≠ s.cfg.capacity)
    (hw : s.rb.wr < s.cfg.capacity) :
    exec (.push b) s = .next (s.setRb
      { data := s.rb.data.write s.rb.wr b, size := s.rb.size + 1, rd := s.rb.rd,
        wr := (s.rb.wr + 1) % s.cfg.capacity }) :=
  settle_next.2 (pushByte_room h hw)

/-- PUSH seen on the queue, full or not. -/
theorem exec_push_queue {s : State} (b : Byte) (hi : RingInv s) :
    ∃ t, exec (.push b) s = .next t ∧ RingInv t
      ∧ liveBytes t = if ringFull s then liveBytes s else liveBytes s ++ [b] := by
  obtain ⟨t, ht⟩ := pushByte_total b hi
  exact ⟨t, settle_next.2 ht, pushByte_keeps ht hi, pushByte_liveBytes ht hi⟩

/-- Settles O12: the slot written reads back because the storage is canonical. -/
theorem pushAppendsOrDrops : Obligations.PushAppendsOrDrops := by
  intro s b
  refine ⟨exec_push_full b, fun hroom hw hwf => ⟨_, exec_push_room b hroom hw, ?_⟩⟩
  exact ⟨Memory.read_write_same hwf _ _, fun _ ha => Memory.read_write_other _ _ ha, rfl, rfl, rfl,
    rfl⟩

/-! ## POP (41_receive_buffer.md R121) -/

theorem exec_pop_empty {s : State} (h : s.rb.size = 0) :
    exec .pop s = .next (s.setRet (.byte 0)) :=
  settleWith_next.2 ⟨_, _, popByte_empty h, rfl⟩

theorem exec_pop_some {s : State} (h : s.rb.size ≠ 0) (hr : s.rb.rd < s.cfg.capacity) :
    exec .pop s = .next ((s.setRb
      { data := s.rb.data, size := s.rb.size - 1, rd := (s.rb.rd + 1) % s.cfg.capacity,
        wr := s.rb.wr }).setRet (.byte (s.rb.data.read s.rb.rd))) :=
  settleWith_next.2 ⟨_, _, popByte_some h hr, rfl⟩

/-- POP of a queue that is not empty splits it into its head and its tail. -/
theorem popByte_uncons {s t : State} {b : Byte} (h : popByte s = .ok (b, t)) (h0 : s.rb.size ≠ 0) :
    liveBytes s = b :: liveBytes t := by
  obtain ⟨hhead, htail⟩ := popByte_queue h
  cases hlive : liveBytes s with
  | nil => exact absurd (liveBytes_eq_nil.1 hlive) h0
  | cons x xs => simp [hhead, htail, byteAt, hlive]

theorem exec_pop_queue {s : State} (hi : RingInv s) (h0 : s.rb.size ≠ 0) :
    ∃ t b, exec .pop s = .next t ∧ t.ret = .byte b ∧ RingInv t ∧ liveBytes s = b :: liveBytes t := by
  obtain ⟨b, u, hu⟩ := popByte_total hi
  exact ⟨u.setRet (.byte b), b, settleWith_next.2 ⟨b, u, hu, rfl⟩, rfl,
    popByte_keeps (t := u) hu hi, popByte_uncons (t := u) hu h0⟩

/-- Settles O13: the two cases of POP, and the second one again on the queue of live bytes. -/
theorem popTakesOldestOrSentinel : Obligations.PopTakesOldestOrSentinel := by
  intro s
  refine ⟨exec_pop_empty, exec_pop_some, fun hi h0 => ?_⟩
  obtain ⟨t, b, hpop, hret, -, hlive⟩ := exec_pop_queue hi h0
  exact ⟨t, b, liveBytes t, hpop, hret, hlive, rfl⟩

/-! ## IS_EMPTY and IS_FULL (41_receive_buffer.md R122) -/

theorem exec_isEmpty (s : State) : exec .isEmpty s = .next (s.setRet (.bit (ringEmpty s))) := rfl

theorem exec_isFull (s : State) : exec .isFull s = .next (s.setRet (.bit (ringFull s))) := rfl

/-- Settles O14: a well-formed configuration has room for a byte, so its empty buffer is not full. -/
theorem bufferQueries : Obligations.BufferQueries := by
  intro s
  refine ⟨exec_isEmpty s, exec_isFull s, rfl, fun hc => ?_⟩
  obtain ⟨-, -, -, -, -, -, hcap, -⟩ := wellFormed_facts hc
  have hroom : 0 ≠ s.cfg.capacity := by omega
  exact decide_eq_false hroom

/-! ## Runs of PUSH and POP (41_receive_buffer.md R123) -/

theorem bufferRun_push {s t : State} {b : Byte} (h : exec (.push b) s = .next t)
    (ops : List (Option Byte)) :
    bufferRun (some b :: ops) s = (bufferRun ops t).map
      (fun r => if ringFull s then r else { r with taken := b :: r.taken }) := by
  simp [bufferRun, h]

/-- A POP of an empty buffer shows nothing, whatever it answers. -/
theorem bufferRun_pop_empty {s t : State} (h : exec .pop s = .next t) (h0 : s.rb.size = 0)
    (ops : List (Option Byte)) : bufferRun (none :: ops) s = bufferRun ops t := by
  simp [bufferRun, h, ringEmpty, h0]

theorem bufferRun_pop_some {s t : State} {b : Byte} (h : exec .pop s = .next t)
    (hret : t.ret = .byte b) (h0 : s.rb.size ≠ 0) (ops : List (Option Byte)) :
    bufferRun (none :: ops) s
      = (bufferRun ops t).map (fun r => { r with popped := b :: r.popped }) := by
  simp [bufferRun, h, ringEmpty, h0, hret]

/-- Settles O15, by induction on the operations: the queue of the state after the first one is the queue
before it, one byte longer (a PUSH that is taken), one byte shorter (a POP that finds one), or the
same, and what the rest of the run shows is appended or prepended to exactly that byte. -/
theorem bufferIsFifo : Obligations.BufferIsFifo := by
  intro ops
  induction ops with
  | nil => exact fun s hi => ⟨_, rfl, hi, (List.append_nil _).symm⟩
  | cons op ops ih =>
    intro s hi
    cases op with
    | some b =>
      obtain ⟨t, hpush, hti, hlive⟩ := exec_push_queue b hi
      obtain ⟨r, hrun, hri, hfifo⟩ := ih t hti
      rw [bufferRun_push hpush, hrun, Option.map_some]
      cases hfull : ringFull s with
      | true => exact ⟨r, rfl, hri, by simpa [hlive, hfull] using hfifo⟩
      | false => exact ⟨_, rfl, hri, by simpa [hlive, hfull] using hfifo⟩
    | none =>
      by_cases h0 : s.rb.size = 0
      · rw [bufferRun_pop_empty (exec_pop_empty h0) h0]
        exact ih _ hi
      · obtain ⟨t, b, hpop, hret, hti, hlive⟩ := exec_pop_queue hi h0
        obtain ⟨r, hrun, hri, hfifo⟩ := ih t hti
        rw [bufferRun_pop_some hpop hret h0, hrun]
        exact ⟨_, rfl, hri, by simp [hlive, hfifo]⟩

/-! ## What the operations that store leave -/

/-- What a store leaves of the buffer: every byte but the one in slot `rb.wr`, the read index, and the
whole buffer when it is full. -/
structure StoreFrame (s t : State) : Prop where
  read : ∀ a, a ≠ s.rb.wr → t.rb.data.read a = s.rb.data.read a
  rd : t.rb.rd = s.rb.rd
  full : s.rb.size = s.cfg.capacity → t.rb = s.rb

theorem storeFrame_of_rb {s t : State} (h : t.rb = s.rb) : StoreFrame s t :=
  ⟨fun _ _ => by rw [h], by rw [h], fun _ => h⟩

theorem pushByte_storeFrame {s t : State} {b : Byte} (h : pushByte b s = .ok t) :
    StoreFrame s t := by
  rcases pushByte_cases h with ⟨-, rfl⟩ | ⟨hroom, -, rfl⟩
  · exact storeFrame_of_rb rfl
  · exact ⟨fun _ ha => Memory.read_write_other _ _ ha, rfl, fun hfull => absurd hfull hroom⟩

theorem onByteOp_storeFrame {s t : State} {b : Byte} (h : onByteOp b s = .ok t) :
    StoreFrame s t := by
  obtain ⟨u, hp, rfl⟩ := onByteOp_cases h
  exact { pushByte_storeFrame hp with }

theorem sampleOp_storeFrame {s t : State} {bit : Bool} (h : sampleOp bit s = .ok t) :
    StoreFrame s t := by
  rcases sampleOp_cases h with ⟨-, rfl⟩ | ⟨-, hbyte⟩
  · exact storeFrame_of_rb rfl
  · exact { onByteOp_storeFrame hbyte with }

theorem exec_storeFrame {i : Instr} {s t : State} (hi : runsPush i = true)
    (h : exec i s = .next t) : StoreFrame s t := by
  match i, hi with
  | .push _, _ => exact pushByte_storeFrame (settle_next.1 h)
  | .onByte _, _ => exact onByteOp_storeFrame (settle_next.1 h)
  | .byteDone _, _ => exact onByteOp_storeFrame (settle_next.1 h)
  | .sample _, _ => exact sampleOp_storeFrame (settle_next.1 h)

/-- An operation that stores writes the receiver, the buffer and the timer at most. -/
theorem exec_frame_of_runsPush {i : Instr} {s t : State} (hi : runsPush i = true)
    (h : exec i s = .next t) : t = ((s.setRx t.rx).setRb t.rb).setBt t.bt := by
  match i, hi with
  | .push _, _ => rw [pushByte_frame (settle_next.1 h)]; rfl
  | .onByte _, _ => rw [onByteOp_frame (settle_next.1 h)]; rfl
  | .byteDone _, _ => rw [onByteOp_frame (settle_next.1 h)]; rfl
  | .sample _, _ => rw [sampleOp_frame (settle_next.1 h)]; rfl

theorem exec_sample_within_keeps {s t : State} {bit : Bool} (hcount : s.rx.count ≠ 7)
    (h : exec (.sample bit) s = .next t) : t.rb = s.rb ∧ t.bt = s.bt := by
  rw [exec_sample_within bit hcount] at h
  cases h
  exact ⟨rfl, rfl⟩

/-- Settles O57: the buffer by `StoreFrame`, the rest by the frame of the operations that store; only
SAMPLE among them writes the receiver, and PUSH leaves the timer by the table of writers. -/
theorem storingOperationsFrame : Obligations.StoringOperationsFrame := by
  intro s t b bit i hmem h
  have hpush : runsPush i = true := by
    revert i
    simp [runsPush]
  have hrx : i ≠ .sample bit → runsReceiver i = false := by
    revert i
    simp [runsReceiver]
  have hop : OpFrame i s t := exec_opFrame h (by rintro rfl; cases hpush)
  have hf := exec_frame_of_runsPush hpush h
  have hstore := exec_storeFrame hpush h
  rw [hf]
  refine ⟨hstore.read, ?_, hstore.rd, rfl, rfl, rfl, rfl, rfl, rfl, rfl, rfl, rfl,
    fun hn => hop.rx (hrx hn), ?_, ?_⟩
  · rintro (hsize | ⟨rfl, hcount⟩)
    · exact hstore.full hsize
    · exact (exec_sample_within_keeps hcount h).1
  · rintro rfl
    exact hop.bt rfl
  · rintro rfl hcount
    exact (exec_sample_within_keeps hcount h).2

/-! ## What the operations that pop leave -/

theorem settleWith_popFrame {α : Type} {wrap : α → Ret} {x : Except Fault (α × State)} {s t : State}
    (hx : ∀ v u, x = .ok (v, u) → PopFrame s u) (h : settleWith wrap x = .next t) :
    PopFrame (s.setRet t.ret) t := by
  obtain ⟨v, u, hu, rfl⟩ := settleWith_next.1 h
  exact congrArg (State.setRet · (wrap v)) (hx v u hu)

/-- An operation that pops and does not run the timer's handlers writes the buffer's read index and size,
the custom slot and the returned value at most. -/
theorem exec_popFrame {i : Instr} {s t : State} (hi : runsPop i = true) (ht : runsTimer i = false)
    (h : exec i s = .next t) : PopFrame (s.setRet t.ret) t := by
  match i, hi, ht with
  | .pop, _, _ => exact settleWith_popFrame (fun _ _ hp => (popFrame_of_pop hp).1) h
  | .decode, _, _ => exact settleWith_popFrame (fun _ _ hd => (decodeCommand_cases hd).2.1) h
  | .cmdShort _, _, _ => exact settleWith_popFrame (fun _ _ hd => (shortCommand_cases hd).2.2.1) h
  | .cmdLong, _, _ => exact settleWith_popFrame (fun _ _ hd => (longCommand_cases hd).2.2.2.1) h

/-- Settles O58, by the frame of the operations that pop; only CMD_LONG and its callers write the custom
slot. -/
theorem poppingOperationsFrame : Obligations.PoppingOperationsFrame := by
  intro s t sel i hmem h
  obtain ⟨hpop, htimer⟩ : runsPop i = true ∧ runsTimer i = false := by
    revert i
    simp [runsPop, runsCmdLong, runsTimer]
  have hop : OpFrame i s t := exec_opFrame h (by rintro rfl; cases hpop)
  have hf := exec_popFrame hpop htimer h
  rw [hf]
  refine ⟨fun _ => rfl, rfl, rfl, rfl, rfl, rfl, rfl, rfl, rfl, rfl, rfl, rfl, ?_⟩
  rintro (rfl | rfl) <;> exact hop.custom rfl

/-! ## What the operations that neither store nor pop nor run the timer leave -/

theorem Ring.eq_of_fields {r r' : Ring} (hdata : r.data = r'.data) (hsize : r.size = r'.size)
    (hrd : r.rd = r'.rd) (hwr : r.wr = r'.wr) : r = r' := by
  cases r
  cases r'
  rw [Ring.mk.injEq]
  exact ⟨hdata, hsize, hrd, hwr⟩

/-- An operation that neither stores nor pops leaves the whole buffer, as the table of writers gives it
field by field. -/
theorem OpFrame.rb {i : Instr} {s t : State} (h : OpFrame i s t) (hpush : runsPush i = false)
    (hpop : runsPop i = false) : t.rb = s.rb := by
  obtain ⟨hdata, hwr⟩ := h.stored hpush
  exact Ring.eq_of_fields hdata (h.size hpush hpop) (h.rd hpop) hwr

/-- The pins' history is written by a cycle itself, never by an operation. -/
theorem exec_mon {i : Instr} {s t : State} (h : exec i s = .next t) : t.mon = s.mon := by
  cases i with
  | sample bit => rw [exec_frame_of_runsPush rfl h]; rfl
  | byteDone b => rw [exec_frame_of_runsPush rfl h]; rfl
  | deselect => cases h; rfl
  | push b => rw [exec_frame_of_runsPush rfl h]; rfl
  | pop => rw [exec_popFrame rfl rfl h]; rfl
  | isEmpty => cases h; rfl
  | isFull => cases h; rfl
  | onByte b => rw [exec_frame_of_runsPush rfl h]; rfl
  | btRestart => cases h; rfl
  | onTick =>
    rcases onTickOp_cases (settle_next.1 h) with ⟨-, rfl⟩ | ⟨-, -, -, hfire⟩ | ⟨-, -, -, rfl⟩
    · rfl
    · rw [fireOp_frame hfire]; rfl
    · rfl
  | fire => rw [fireOp_frame (settle_next.1 h)]; rfl
  | decode => rw [exec_popFrame rfl rfl h]; rfl
  | cmdShort sel => rw [exec_popFrame rfl rfl h]; rfl
  | cmdLong => rw [exec_popFrame rfl rfl h]; rfl
  | emitZero => cases h; rfl
  | emitOne => cases h; rfl
  | emitInit => cases h; rfl
  | emitEndGap => cases h; rfl
  | emitSbit0 => cases h; rfl
  | emitSbit1 => cases h; rfl
  | send cmd => cases h; rw [sendCommand_frame]; rfl
  | txStep =>
    rcases stepTx_cases (settle_next.1 h) with ⟨-, rfl⟩ | ⟨-, seg, rest, -, rfl⟩ <;> rfl
  | reset => cases h; rfl

/-- Settles O60, by the table of writers, in which none of these operations is a writer of the buffer, the
timer or the custom slot. -/
theorem nonStoringOperationsFrame : Obligations.NonStoringOperationsFrame := by
  intro s t cmd i hmem h
  obtain ⟨hpush, hpop, htimer, hlong, hreset⟩ : runsPush i = false ∧ runsPop i = false
      ∧ runsTimer i = false ∧ runsCmdLong i = false ∧ i ≠ .reset := by
    revert i
    simp [runsPush, runsPop, runsCmdLong, runsTimer]
  have hrx : i ≠ .deselect → runsReceiver i = false := by
    revert i
    simp [runsReceiver]
  have htx : i ≠ .send cmd → i ≠ .txStep → runsTransmitter i = false := by
    revert i
    simp [runsTransmitter]
  have hop := exec_opFrame h hreset
  have hrb := hop.rb hpush hpop
  exact ⟨fun a => by rw [hrb], hrb, hop.sync, hop.bt htimer, hop.custom hlong, exec_cfg h,
    hop.agenda, exec_mon h, fun hn => hop.rx (hrx hn), fun hs hx => hop.tx (htx hs hx), hop.trace⟩

end Sys2Proof.Machine

/-! SUPPORT. The BurstTimer (42_burst_timer.md): ON_BYTE (R140), BT_RESTART (R141), ON_TICK (R142), FIRE
(R143), the priority of a cycle (R144), when the fire comes (R145), the timer laws (R146) and the
state machine of the modes (R147). -/

namespace Sys2Proof.Machine

/-! ## The modes (10_state.md R45) -/

theorem modeOf_sending {s : State} (h : s.tx.active = true) : modeOf s = .transmitting := by
  simp [modeOf, h]

theorem modeOf_notSending {s : State} (h : s.tx.active = false) :
    modeOf s = if s.bt.armed then .accumulating else .idle := by
  simp [modeOf, h]

theorem modeOf_eq_accumulating {s : State} :
    modeOf s = .accumulating ↔ s.bt.armed = true ∧ s.tx.active = false := by
  cases ha : s.tx.active <;> cases hb : s.bt.armed <;> simp [modeOf, ha, hb]

theorem modeOf_eq_transmitting {s : State} : modeOf s = .transmitting ↔ s.tx.active = true := by
  cases ha : s.tx.active <;> cases hb : s.bt.armed <;> simp [modeOf, ha, hb]

/-! ## ON_BYTE and BYTE_DONE (42_burst_timer.md R140, 40_serial_receiver.md R101) -/

/-- Settles O17: BYTE_DONE is ON_BYTE, which is a PUSH and a restart, also where the PUSH drops its
byte. -/
theorem onBytePushesAndRestarts : Obligations.OnBytePushesAndRestarts := by
  intro s b hi
  obtain ⟨t, ht⟩ := onByteOp_total b hi
  exact ⟨t, settle_next.2 ht, settle_next.2 ht, onByteOp_liveBytes ht hi, onByteOp_frame ht,
    fun hfull => (onByteOp_storeFrame ht).full (of_decide_eq_true hfull)⟩

/-! ## ON_TICK (42_burst_timer.md R142) -/

theorem exec_onTick_ignored {s : State} (h : s.bt.armed = false ∨ s.tx.active = true) :
    exec .onTick s = .next s :=
  settle_next.2 (if_pos (by simpa using h))

/-- ON_TICK in Accumulating, past its guard. -/
theorem onTickOp_accumulating {s : State} (harmed : s.bt.armed = true) (hidle : s.tx.active = false) :
    onTickOp s = if s.bt.elapsed + 1 = s.cfg.idleThreshold then fireOp s
      else .ok (s.setBt { armed := true, elapsed := s.bt.elapsed + 1 }) := by
  simp [onTickOp, harmed, hidle]

theorem exec_onTick_accumulating {s : State} (harmed : s.bt.armed = true)
    (hidle : s.tx.active = false) :
    exec .onTick s = if s.bt.elapsed + 1 = s.cfg.idleThreshold then exec .fire s
      else .next (s.setBt { armed := true, elapsed := s.bt.elapsed + 1 }) :=
  (congrArg settle (onTickOp_accumulating harmed hidle)).trans (apply_ite settle _ _ _)

/-- A tick at a given count: FIRE does not look at the timer, so it may as well start from `s`. -/
theorem exec_onTick_at {s : State} (k : Nat) (hidle : s.tx.active = false) :
    exec .onTick (s.setBt { armed := true, elapsed := k })
      = if k + 1 = s.cfg.idleThreshold then exec .fire s
        else .next (s.setBt { armed := true, elapsed := k + 1 }) :=
  exec_onTick_accumulating (s := s.setBt { armed := true, elapsed := k }) rfl hidle

/-- Settles O19: the guard of ON_TICK, then its test for the TH-th tick. -/
theorem onTickCountsOrFires : Obligations.OnTickCountsOrFires := by
  intro s
  refine ⟨exec_onTick_ignored, fun harmed hidle hne => ?_, fun harmed hidle heq => ?_⟩
  · rw [exec_onTick_accumulating harmed hidle, if_neg hne]
  · rw [exec_onTick_accumulating harmed hidle, if_pos heq]

/-! ## BT_RESTART (42_burst_timer.md R141) -/

theorem exec_btRestart (s : State) :
    exec .btRestart s = .next (s.setBt { armed := true, elapsed := 0 }) := rfl

/-- Settles O18: during a send ON_TICK is ignored, so what the restart or the byte leaves stays. -/
theorem restartArmsTheTimer : Obligations.RestartArmsTheTimer := by
  intro s
  refine ⟨exec_btRestart s, ?_, fun hsend => ?_, fun b hsend hi hroom => ?_⟩
  · rw [runOps_cons_of (exec_btRestart s)]
    rfl
  · rw [runOps_cons_of (exec_btRestart s), runOps_singleton, exec_btRestart]
    exact exec_onTick_ignored (.inr hsend)
  · obtain ⟨t, ht⟩ := onByteOp_total b hi
    have hf := onByteOp_frame ht
    have htx : t.tx = s.tx := by rw [hf]; rfl
    have hbyte : exec (.onByte b) s = .next t := settle_next.2 ht
    refine ⟨t, ?_, ?_, by rw [hf]; rfl, htx, by rw [hf]; rfl⟩
    · rw [runOps_cons_of hbyte, runOps_singleton]
      exact exec_onTick_ignored (.inr (htx ▸ hsend))
    · simpa [hroom] using onByteOp_liveBytes ht hi

/-! ## FIRE (42_burst_timer.md R143) -/

theorem fireOp_bt {s t : State} (h : fireOp s = .ok t) : t.bt = { armed := false, elapsed := 0 } := by
  rw [fireOp_frame h]
  rfl

theorem exec_fire_total {s : State} (hi : RingInv s) : ∃ t, exec .fire s = .next t := by
  obtain ⟨t, ht⟩ := fireOp_total hi
  exact ⟨t, settle_next.2 ht⟩

theorem sendCommand_tx (cmd : Command) (s : State) :
    (sendCommand cmd s).tx.active = true ∨ (sendCommand cmd s).tx = s.tx := by
  rcases sendCommand_cases cmd s with ⟨-, h⟩ | ⟨-, seg, rest, -, h⟩ <;> rw [h]
  · exact .inr rfl
  · exact .inl rfl

/-- FIRE starts a send or leaves the transmitter alone. -/
theorem fireOp_tx {s t : State} (h : fireOp s = .ok t) : t.tx.active = true ∨ t.tx = s.tx := by
  obtain ⟨cmd, u, hd, rfl⟩ := fireOp_cases h
  obtain ⟨-, hf, -⟩ := decodeCommand_cases hd
  have htx : u.tx = s.tx := by rw [hf]; rfl
  exact htx ▸ sendCommand_tx cmd u

theorem fireOp_mode {s t : State} (h : fireOp s = .ok t) (hidle : s.tx.active = false) :
    modeOf t = .transmitting ∨ t.tx = s.tx ∧ modeOf t = .idle := by
  rcases fireOp_tx h with hsend | htx
  · exact .inl (modeOf_sending hsend)
  · refine .inr ⟨htx, ?_⟩
    rw [modeOf_notSending (htx ▸ hidle), fireOp_bt h]
    rfl

/-- Settles O20: FIRE is DECODE, from the disarmed timer, and SEND of its command; DECODE run on its own
differs in the returned value alone. -/
theorem fireDecodesAndSends : Obligations.FireDecodesAndSends := by
  intro s hi
  obtain ⟨t, ht⟩ := fireOp_total hi
  obtain ⟨cmd, u, hd, rfl⟩ := fireOp_cases ht
  obtain ⟨-, hf, -⟩ := decodeCommand_cases hd
  have hret : (u.setRet (.command cmd)).setRet s.ret = u := by rw [hf]; rfl
  refine ⟨u.setRet (.command cmd), cmd, sendCommand cmd u, settleWith_next.2 ⟨cmd, u, hd, rfl⟩, rfl,
    ?_, settle_next.2 ht, fireOp_bt ht, fireOp_mode ht⟩
  rw [hret]
  rfl

/-! ## The timer laws (42_burst_timer.md R146) -/

/-- Ticks that stay below TH count. -/
theorem runOps_ticks_count {s : State} {k n : Nat} (hidle : s.tx.active = false)
    (hlt : k + n < s.cfg.idleThreshold) :
    runOps (List.replicate n .onTick) (s.setBt { armed := true, elapsed := k })
      = .next (s.setBt { armed := true, elapsed := k + n }) := by
  induction n generalizing k with
  | zero => rfl
  | succ n ih =>
    have hstep : exec .onTick (s.setBt { armed := true, elapsed := k })
        = .next (s.setBt { armed := true, elapsed := k + 1 }) := by
      rw [exec_onTick_at k hidle, if_neg (by omega)]
    rw [List.replicate_succ, runOps_cons_of hstep, ih (by omega), Nat.add_right_comm]
    rfl

theorem runOps_restart_ticks {s : State} {n : Nat} (hidle : s.tx.active = false)
    (hlt : n < s.cfg.idleThreshold) :
    runOps (.btRestart :: List.replicate n .onTick) s
      = .next (s.setBt { armed := true, elapsed := n }) := by
  rw [runOps_cons_of (exec_btRestart s), runOps_ticks_count hidle (by omega), Nat.zero_add]

/-- Ticks after a fire do nothing. -/
theorem runOps_ticks_disarmed {s : State} (n : Nat) (h : s.bt.armed = false) :
    runOps (List.replicate n .onTick) s = .next s := by
  induction n with
  | zero => rfl
  | succ n ih => rw [List.replicate_succ, runOps_cons_of (exec_onTick_ignored (.inl h)), ih]

/-- A restart and TH ticks are one FIRE, whatever the count was before. -/
theorem runOps_restart_threshold {s : State} (hidle : s.tx.active = false)
    (hth : 1 ≤ s.cfg.idleThreshold) :
    runOps (.btRestart :: List.replicate s.cfg.idleThreshold .onTick) s = exec .fire s := by
  obtain ⟨n, hn⟩ : ∃ n, s.cfg.idleThreshold = n + 1 := ⟨_, (Nat.sub_add_cancel hth).symm⟩
  rw [hn, List.replicate_succ', ← List.cons_append,
    runOps_append_of (runOps_restart_ticks hidle (by omega)), runOps_singleton,
    exec_onTick_at n hidle, if_pos hn.symm]

/-- Settles O21: (a) ticks below TH count, (b) the TH-th fires and disarms, which ends the counting,
(c) a restart discards the count. -/
theorem timerLaws : Obligations.TimerLaws := by
  intro s hidle hc hi
  obtain ⟨-, -, -, -, -, -, -, hth, -⟩ := wellFormed_facts hc
  refine ⟨fun n => runOps_restart_ticks hidle, fun m => ?_, fun n m hn hm => ?_⟩
  · obtain ⟨t, ht⟩ := exec_fire_total hi
    have hoff : t.bt.armed = false := by rw [fireOp_bt (settle_next.1 ht)]
    have hrun := (runOps_restart_threshold hidle hth).trans ht
    refine ⟨t, ht, ?_⟩
    rw [List.replicate_add, ← List.cons_append, runOps_append_of hrun, runOps_ticks_disarmed m hoff]
  · rw [runOps_append_of (runOps_restart_ticks hidle hn)]
    exact runOps_restart_ticks hidle hm

/-! ## The state machine of the modes (42_burst_timer.md R147) -/

theorem modeOf_after_onByte {s t : State} {b : Byte} (h : onByteOp b s = .ok t) :
    modeOf t = if s.tx.active then .transmitting else .accumulating := by
  rw [onByteOp_frame h]
  rfl

theorem onTickOp_eq_self {s t : State} (h : onTickOp s = .ok t) (hmode : modeOf s ≠ .accumulating) :
    t = s := by
  rcases onTickOp_cases h with ⟨-, rfl⟩ | ⟨harmed, hidle, -⟩ | ⟨harmed, hidle, -⟩
  · rfl
  · exact absurd (modeOf_eq_accumulating.2 ⟨harmed, hidle⟩) hmode
  · exact absurd (modeOf_eq_accumulating.2 ⟨harmed, hidle⟩) hmode

/-- A tick in Accumulating that answers a next state counts, or fires and leaves Accumulating. -/
theorem modeOf_after_onTick {s t : State} (h : onTickOp s = .ok t)
    (hmode : modeOf s = .accumulating) :
    if s.bt.elapsed + 1 = s.cfg.idleThreshold then modeOf t = .transmitting ∨ modeOf t = .idle
    else modeOf t = .accumulating ∧ t.bt.elapsed = s.bt.elapsed + 1 := by
  obtain ⟨harmed, hidle⟩ := modeOf_eq_accumulating.1 hmode
  rcases onTickOp_cases h with ⟨hoff | hsend, -⟩ | ⟨-, -, heq, hfire⟩ | ⟨-, -, hne, rfl⟩
  · simp [harmed] at hoff
  · simp [hidle] at hsend
  · rw [if_pos heq]
    exact (fireOp_mode hfire hidle).imp_right And.right
  · rw [if_neg hne]
    exact ⟨modeOf_eq_accumulating.2 ⟨harmed, hidle⟩, rfl⟩

/-- The last TX_STEP of a send leaves the mode to the timer; every other one goes on sending. -/
theorem modeOf_after_stepTx {s t : State} (h : stepTx s = .ok t) (hsend : s.tx.active = true) :
    if t.tx.wave = [] then modeOf t = (if s.bt.armed then .accumulating else .idle)
    else modeOf t = .transmitting := by
  rcases stepTx_cases h with ⟨hidle, -⟩ | ⟨-, seg, rest, -, rfl⟩
  · simp [hsend] at hidle
  · cases rest with
    | nil => exact modeOf_notSending rfl
    | cons nxt rest => exact modeOf_sending hsend

/-- Settles O22, one clause for each of the three operations. -/
theorem modeTransitions : Obligations.ModeTransitions := by
  intro s t
  refine ⟨fun b h => ?_, fun h => ?_, fun h hmode => ?_⟩
  · have hbyte := settle_next.1 h
    exact ⟨by rw [onByteOp_frame hbyte]; rfl, modeOf_after_onByte hbyte⟩
  · have htick := settle_next.1 h
    exact ⟨onTickOp_eq_self htick, modeOf_after_onTick htick⟩
  · exact modeOf_after_stepTx (settle_next.1 h) (modeOf_eq_transmitting.1 hmode)

/-! ## What the timer's operations leave -/

/-- What the timer's operations leave: all but the timer, the buffer's read index and size, the custom
slot and the transmitter. -/
abbrev TimerFrame (s t : State) : Prop :=
  t = (((s.setRb { data := s.rb.data, size := t.rb.size, rd := t.rb.rd, wr := s.rb.wr }).setBt
    t.bt).setCustom t.custom).setTx t.tx

theorem fireOp_timerFrame {s t : State} (h : fireOp s = .ok t) : TimerFrame s t := by
  unfold TimerFrame
  rw [fireOp_bt h]
  exact fireOp_frame h

theorem onTickOp_timerFrame {s t : State} (h : onTickOp s = .ok t) : TimerFrame s t := by
  rcases onTickOp_cases h with ⟨-, rfl⟩ | ⟨-, -, -, hfire⟩ | ⟨-, -, -, rfl⟩
  · rfl
  · exact fireOp_timerFrame hfire
  · rfl

theorem exec_timerFrame {i : Instr} {s t : State} (hi : i ∈ [Instr.btRestart, .onTick, .fire])
    (h : exec i s = .next t) : TimerFrame s t := by
  simp only [List.mem_cons, List.not_mem_nil, or_false] at hi
  rcases hi with rfl | rfl | rfl
  · cases h; rfl
  · exact onTickOp_timerFrame (settle_next.1 h)
  · exact fireOp_timerFrame (settle_next.1 h)

/-- Settles O59, by the frame of the timer's operations. -/
theorem timerOperationsFrame : Obligations.TimerOperationsFrame := by
  intro s t i hi h
  rw [exec_timerFrame hi h]
  refine ⟨fun _ => rfl, rfl, rfl, rfl, rfl, rfl, rfl, rfl, rfl, rfl, rfl, ?_⟩
  rintro rfl
  cases h
  exact ⟨rfl, rfl, rfl⟩

end Sys2Proof.Machine

/-! SUPPORT. The BurstTimer in a cycle of `clk`: a byte before a tick, a tick before the sequencer
(42_burst_timer.md R144), and the cycle in which the timer fires (R145). -/

namespace Sys2Proof.Machine

/-! ## The operations of the timer do not read the receiver or the pins' history

`aside rx mon` writes the two fields that a cycle has written before it comes to the timer. A run of the
timer's operations from `aside rx mon s` in place of `s` ends in the same state but for these fields. -/

/-- `s` with another receiver and another history of the pins. -/
def aside (rx : Rx) (mon : Monitor) (s : State) : State := (s.setMon mon).setRx rx

section
variable (rx : Rx) (mon : Monitor) (s : State)

@[simp] theorem aside_cfg : (aside rx mon s).cfg = s.cfg := rfl
@[simp] theorem aside_rb : (aside rx mon s).rb = s.rb := rfl
@[simp] theorem aside_bt : (aside rx mon s).bt = s.bt := rfl
@[simp] theorem aside_tx : (aside rx mon s).tx = s.tx := rfl

theorem pushByte_aside (b : Byte) :
    pushByte b (aside rx mon s) = (pushByte b s).map (aside rx mon) := by
  unfold pushByte ringWrite
  rw [aside_rb, aside_cfg]
  split_ifs <;> rfl

theorem onByteOp_aside (b : Byte) :
    onByteOp b (aside rx mon s) = (onByteOp b s).map (aside rx mon) := by
  simp only [onByteOp, pushByte_aside]
  cases pushByte b s <;> rfl

theorem popByte_aside :
    popByte (aside rx mon s) = (popByte s).map (Prod.map id (aside rx mon)) := by
  unfold popByte ringRead
  rw [aside_rb, aside_cfg]
  split_ifs <;> rfl

theorem shortCommand_aside (sel : Byte) :
    shortCommand sel (aside rx mon s) = (shortCommand sel s).map (Prod.map id (aside rx mon)) := by
  simp only [shortCommand, popByte_aside]
  cases popByte s <;> rfl

theorem popFour_aside :
    popFour (aside rx mon s) = (popFour s).map (Prod.map id (aside rx mon)) := by
  simp only [popFour, popByte_aside]
  rcases popByte s with f | ⟨b1, s1⟩
  · rfl
  simp only [Except.map, Prod.map, popByte_aside]
  rcases popByte s1 with f | ⟨b2, s2⟩
  · rfl
  simp only [Except.map, Prod.map, popByte_aside]
  rcases popByte s2 with f | ⟨b3, s3⟩
  · rfl
  simp only [Except.map, Prod.map, popByte_aside]
  rcases popByte s3 with f | ⟨b4, s4⟩ <;> rfl

theorem longCommand_aside :
    longCommand (aside rx mon s) = (longCommand s).map (Prod.map id (aside rx mon)) := by
  simp only [longCommand, popFour_aside]
  cases popFour s <;> rfl

theorem decodeCommand_aside :
    decodeCommand (aside rx mon s) = (decodeCommand s).map (Prod.map id (aside rx mon)) := by
  simp only [decodeCommand, popByte_aside]
  rcases popByte s with f | ⟨sel, s1⟩
  · rfl
  · simp only [Except.map, Prod.map, id]
    split
    · exact longCommand_aside rx mon s1
    · exact shortCommand_aside rx mon s1 sel

theorem sendCommand_aside (cmd : Command) :
    sendCommand cmd (aside rx mon s) = aside rx mon (sendCommand cmd s) := by
  have hwave : waveOf (aside rx mon s) cmd = waveOf s cmd := waveOf_congr rfl rfl cmd
  simp only [sendCommand, hwave, aside_cfg]
  split
  · rfl
  · split <;> rfl

theorem fireOp_aside : fireOp (aside rx mon s) = (fireOp s).map (aside rx mon) := by
  have hdisarm : disarmTimer (aside rx mon s) = aside rx mon (disarmTimer s) := rfl
  simp only [fireOp, hdisarm, decodeCommand_aside]
  rcases decodeCommand (disarmTimer s) with f | ⟨cmd, s1⟩
  · rfl
  · exact congrArg Except.ok (sendCommand_aside rx mon s1 cmd)

theorem onTickOp_aside : onTickOp (aside rx mon s) = (onTickOp s).map (aside rx mon) := by
  unfold onTickOp
  rw [aside_bt, aside_tx, aside_cfg]
  split_ifs
  · rfl
  · exact fireOp_aside rx mon s
  · rfl

end

theorem map_aside_ok {rx : Rx} {mon : Monitor} {x : Except Fault State} {t : State} :
    x.map (aside rx mon) = .ok t ↔ ∃ u, x = .ok u ∧ t = aside rx mon u := by
  cases x <;> simp [Except.map, eq_comm]

/-! ## The receiver's part of a cycle, with and without a byte -/

theorem byteEvent_portWord {s : State} {p : Pins} : byteEvent (portWord s p) = true ↔
    s.sync.ss2 = false ∧ syncEdge s.cfg.sampleEdge s.sync = true ∧ s.rx.count = 7 := by
  simp [byteEvent, portWord, and_assoc]

/-- A cycle that completes a byte runs BYTE_DONE of it, with the receiver cleared to a byte boundary. -/
theorem receiver_byte {s t : State} {p : Pins} (hb : byteEvent (portWord s p) = true)
    (h : runOps (receiverOps (portWord s p)) (cycleStart p s) = .next t) :
    ∃ u, onByteOp (shiftIn s.rx.shift s.sync.sdi2) s = .ok u
      ∧ t = aside { shift := shiftIn s.rx.shift s.sync.sdi2, count := 0 }
          (nextMonitor s.cfg.sampleEdge s.mon p) u := by
  obtain ⟨hssn, hedge, hcount⟩ := byteEvent_portWord.1 hb
  rw [receiverOps_of_edge hssn hedge, runOps_singleton] at h
  rw [exec_sample_eighth (s := cycleStart p s) _ hcount] at h
  have hbyte := settle_next.1 h
  exact map_aside_ok.1 ((onByteOp_aside _ _ s _).symm.trans hbyte)

/-- Without a byte the receiver's part of a cycle writes the receiver alone. -/
theorem receiver_noByte {s t : State} {p : Pins} (hb : byteEvent (portWord s p) = false)
    (h : runOps (receiverOps (portWord s p)) (cycleStart p s) = .next t) :
    t = aside t.rx (nextMonitor s.cfg.sampleEdge s.mon p) s := by
  rcases receiver_cases h with ⟨-, rfl⟩ | ⟨hssn, hedge, hsample⟩ | ⟨-, -, rfl⟩
  · rfl
  · rcases sampleOp_cases hsample with ⟨-, rfl⟩ | ⟨hcount, -⟩
    · rfl
    · exact absurd (byteEvent_portWord.2 ⟨hssn, hedge, hcount⟩) (Bool.eq_false_iff.1 hb)
  · rfl

/-! ## The sequencer's part of a cycle -/

theorem countCycle_rb (s u : State) : (countCycle s u).rb = u.rb := by
  unfold countCycle
  split <;> rfl

theorem countCycle_bt (s u : State) : (countCycle s u).bt = u.bt := by
  unfold countCycle
  split <;> rfl

theorem countCycle_idle {s : State} (u : State) (hidle : s.tx.active = false) :
    countCycle s u = u := by
  simp [countCycle, hidle]

theorem segEnd_keeps {b : Bool} {s t : State}
    (h : runOps (if b then [.txStep] else []) s = .next t) : t.rb = s.rb ∧ t.bt = s.bt := by
  rcases segEnd_cases h with ⟨-, hstep⟩ | ⟨-, rfl⟩
  · have hf := stepTx_opFrame hstep
    exact ⟨hf.rb rfl rfl, hf.bt rfl⟩
  · exact ⟨rfl, rfl⟩

/-! ## Priority in a cycle (42_burst_timer.md R144) -/

/-- A cycle in one equation over the operations it carries. -/
theorem cycle_eq (p : Pins) (s : State) :
    cycle p s = if timingKept s.cfg.sampleEdge s.mon p then
        if p.rst then runOps (decodePort (portWord s p)) (cycleStart p s)
        else finishCycle (cycleStart p s) p (runOps (decodePort (portWord s p)) (cycleStart p s))
      else .refused .serialTiming := rfl

/-- Of the pins a cycle reads the serial ones, `rst`, and what they make it carry. -/
theorem cycle_congr {p q : Pins} {s : State} (hserial : serialPins p = serialPins q)
    (hrst : p.rst = q.rst) (hops : decodePort (portWord s p) = decodePort (portWord s q)) :
    cycle p s = cycle q s := by
  cases p
  cases q
  simp only [serialPins, SerialPins.mk.injEq] at hserial
  obtain ⟨rfl, rfl, rfl⟩ := hserial
  obtain rfl := hrst
  rw [cycle_eq, cycle_eq, hops]
  rfl

/-- A port word with a byte carries the same operations with and without a tick. -/
theorem decodePort_byte_tick {w : PortWord} (hb : byteEvent w = true) (tick : Bool) :
    decodePort { w with tick := tick } = decodePort { w with tick := false } := by
  have hbyte : byteEvent { w with tick := tick } = true := hb
  simp only [decodePort, hbyte, Bool.not_true, Bool.and_false, Bool.false_and]
  rfl

/-- A cycle that completes a byte leaves the buffer and the timer as ON_BYTE of it does. -/
theorem cycle_byte {s t : State} {p : Pins} (hr : p.rst = false)
    (hb : byteEvent (portWord s p) = true) (h : cycle p s = .next t) :
    ∃ u, onByteOp (shiftIn s.rx.shift s.sync.sdi2) s = .ok u ∧ t.rb = u.rb ∧ t.bt = u.bt := by
  obtain ⟨-, s1, s2, s3, h1, h2, h3, rfl⟩ := cycle_cases hr h
  obtain ⟨u, hu, rfl⟩ := receiver_byte hb h1
  rw [hb, Bool.not_true, Bool.and_false] at h2
  cases h2
  obtain ⟨hrb, hbt⟩ := segEnd_keeps h3
  exact ⟨u, hu, (countCycle_rb s s3).trans hrb, (countCycle_bt s s3).trans hbt⟩

/-- During a send, its last cycle included, a cycle without a byte leaves the timer and the buffer. -/
theorem cycle_sending {s t : State} {p : Pins} (hr : p.rst = false)
    (hb : byteEvent (portWord s p) = false) (hsend : s.tx.active = true)
    (h : cycle p s = .next t) : t.bt = s.bt ∧ t.rb = s.rb := by
  obtain ⟨-, s1, s2, s3, h1, h2, h3, rfl⟩ := cycle_cases hr h
  have hs1 := receiver_noByte hb h1
  have hs2 : s2 = s1 := by
    rcases tick_cases h2 with ⟨-, htick⟩ | ⟨-, rfl⟩
    · rw [onTickOp_active (by rw [hs1]; exact hsend)] at htick
      exact (Except.ok.inj htick).symm
    · rfl
  obtain ⟨hrb, hbt⟩ := segEnd_keeps h3
  rw [hs2, hs1] at hrb hbt
  exact ⟨(countCycle_bt s s3).trans hbt, (countCycle_rb s s3).trans hrb⟩

/-- Without a send and without a byte a cycle is its tick, and no sequencer step acts with it. -/
theorem cycle_idle {s t : State} {p : Pins} (hr : p.rst = false)
    (hb : byteEvent (portWord s p) = false) (hidle : s.tx.active = false)
    (h : cycle p s = .next t) :
    ∃ u, runOps (if p.tick then [.onTick] else []) s = .next u
      ∧ t.bt = u.bt ∧ t.rb = u.rb ∧ t.custom = u.custom ∧ t.tx = u.tx := by
  obtain ⟨-, s1, s2, s3, h1, h2, h3, rfl⟩ := cycle_cases hr h
  have hs1 := receiver_noByte hb h1
  have hsegEnd : (portWord s p).segEnd = false := by simp [portWord, hidle]
  rw [hsegEnd] at h3
  cases h3
  rw [hb, Bool.not_false, Bool.and_true] at h2
  rw [countCycle_idle s2 hidle]
  rcases tick_cases h2 with ⟨htick, hop⟩ | ⟨htick, rfl⟩
  · rw [hs1, onTickOp_aside, map_aside_ok] at hop
    obtain ⟨u, hu, rfl⟩ := hop
    refine ⟨u, ?_, rfl, rfl, rfl, rfl⟩
    rw [if_pos htick, runOps_singleton]
    exact settle_next.2 hu
  · rw [hs1]
    exact ⟨s, by simp [htick], rfl, rfl, rfl, rfl⟩

/-- Settles O44, by the three cases of a cycle. -/
theorem byteWinsOverTick : Obligations.ByteWinsOverTick := by
  intro s p hr b
  have hshift : b = shiftIn s.rx.shift s.sync.sdi2 := (shiftIn_eq _ _).symm
  rw [hshift]
  refine ⟨fun hb => ⟨cycle_congr rfl rfl (decodePort_byte_tick hb true), fun t h => ?_⟩,
    fun hb hsend t => cycle_sending hr hb hsend, fun hb hidle htick t h => ?_⟩
  · obtain ⟨u, hu, hkept⟩ := cycle_byte hr hb h
    exact ⟨u, settle_next.2 hu, hkept⟩
  · obtain ⟨u, hu, hkept⟩ := cycle_idle hr hb hidle h
    rw [if_pos htick, runOps_singleton] at hu
    exact ⟨u, hu, hkept⟩

/-! ## The cycle in which the timer fires (42_burst_timer.md R145) -/

/-- The timer has seen `n` ticks since the last byte, with no send in progress when it came: below TH it
has counted them all and nothing has been sent; at TH it has fired. -/
structure TicksSeen (n : Nat) (s : State) : Prop where
  counting : n < s.cfg.idleThreshold →
    s.bt = { armed := true, elapsed := n } ∧ s.tx.active = false
  fired : s.cfg.idleThreshold ≤ n → s.bt.armed = false

theorem TicksSeen.armed {n : Nat} {s : State} (h : TicksSeen n s) :
    s.bt.armed = decide (n < s.cfg.idleThreshold) := by
  by_cases hlt : n < s.cfg.idleThreshold
  · simp [hlt, (h.counting hlt).1]
  · simp [hlt, h.fired (Nat.le_of_not_lt hlt)]

theorem ticksSeen_congr {n : Nat} {s t : State} (h : TicksSeen n s) (hcfg : t.cfg = s.cfg)
    (hbt : t.bt = s.bt) (htx : t.tx = s.tx) : TicksSeen n t := by
  refine ⟨fun hlt => ?_, fun hle => ?_⟩
  · rw [hbt, htx]
    exact h.counting (hcfg ▸ hlt)
  · rw [hbt]
    exact h.fired (hcfg ▸ hle)

/-- One more tick: it counts below TH - 1, fires at TH - 1, and is ignored after the fire. -/
theorem TicksSeen.after_onTick {n : Nat} {s t : State} (h : TicksSeen n s)
    (ht : exec .onTick s = .next t) : TicksSeen (n + 1) t := by
  have hcfg : t.cfg = s.cfg := exec_cfg ht
  by_cases hlt : n < s.cfg.idleThreshold
  · obtain ⟨hbt, hidle⟩ := h.counting hlt
    rw [exec_onTick_accumulating (by rw [hbt]) hidle, hbt] at ht
    split at ht
    · rename_i heq
      refine ⟨fun hn => ?_, fun _ => by rw [fireOp_bt (settle_next.1 ht)]⟩
      rw [hcfg] at hn
      exact absurd heq hn.ne
    · rename_i hne
      cases ht
      exact ⟨fun _ => ⟨rfl, hidle⟩, fun hle => absurd (Nat.le_antisymm hlt hle) hne⟩
  · have hoff := h.fired (Nat.le_of_not_lt hlt)
    rw [exec_onTick_ignored (.inl hoff)] at ht
    cases ht
    exact ⟨fun hn => absurd (Nat.lt_of_succ_lt hn) hlt, fun _ => hoff⟩

/-- A cycle without a byte moves the number of ticks seen by its own tick. -/
theorem TicksSeen.after_cycle {n : Nat} {s t : State} {p : Pins} (h : TicksSeen n s)
    (hr : p.rst = false) (hb : byteEvent (portWord s p) = false) (ht : cycle p s = .next t) :
    TicksSeen (n + if p.tick then 1 else 0) t := by
  have hcfg := cycle_cfg ht
  cases hsend : s.tx.active with
  | true =>
    obtain ⟨hbt, -⟩ := cycle_sending hr hb hsend ht
    have hle : s.cfg.idleThreshold ≤ n := by
      by_contra hlt
      simp [(h.counting (Nat.lt_of_not_le hlt)).2] at hsend
    have hoff : t.bt.armed = false := hbt ▸ h.fired hle
    refine ⟨fun hn => ?_, fun _ => hoff⟩
    rw [hcfg] at hn
    omega
  | false =>
    obtain ⟨u, hu, hbt, -, -, htx⟩ := cycle_idle hr hb hsend ht
    have hcfg' : t.cfg = u.cfg := hcfg.trans (runOps_cfg hu).symm
    refine ticksSeen_congr ?_ hcfg' hbt htx
    split_ifs at hu ⊢
    · rw [runOps_singleton] at hu
      exact h.after_onTick hu
    · cases hu
      exact h

theorem noByteIn_cons {p : Pins} {ps : List Pins} {s t : State} (h : noByteIn (p :: ps) s)
    (ht : cycle p s = .next t) : byteEvent (portWord s p) = false ∧ noByteIn ps t :=
  ⟨h 0 s p rfl rfl, fun k u q hu hq => h (k + 1) u q (runCycles_cons_next.2 ⟨t, ht, hu⟩) hq⟩

/-- A run of cycles without a byte moves the number of ticks seen by the ticks it carries. -/
theorem TicksSeen.after_runCycles {n : Nat} {s t : State} {ps : List Pins} (h : TicksSeen n s)
    (hr : ∀ q ∈ ps, q.rst = false) (hb : noByteIn ps s) (ht : runCycles ps s = .next t) :
    TicksSeen (n + ps.countP (fun q => q.tick)) t := by
  induction ps generalizing n s with
  | nil =>
    cases ht
    exact h
  | cons p ps ih =>
    obtain ⟨u, hu, hrest⟩ := runCycles_cons_next.1 ht
    obtain ⟨hbyte, hbytes⟩ := noByteIn_cons hb hu
    rw [List.forall_mem_cons] at hr
    have hfirst := h.after_cycle hr.1 hbyte hu
    rw [List.countP_cons, Nat.add_comm (ps.countP _), ← Nat.add_assoc]
    exact ih hfirst hr.2 hbytes hrest

/-- A cycle that completes a byte and leaves no send in progress starts the count. -/
theorem ticksSeen_byte {s t : State} {p : Pins} (hr : p.rst = false)
    (hb : byteEvent (portWord s p) = true) (h : cycle p s = .next t) (hidle : t.tx.active = false)
    (hth : 1 ≤ t.cfg.idleThreshold) : TicksSeen 0 t := by
  obtain ⟨u, hu, -, hbt⟩ := cycle_byte hr hb h
  have hrestart : t.bt = { armed := true, elapsed := 0 } := by
    rw [hbt, onByteOp_frame hu]
    rfl
  exact ⟨fun _ => ⟨hrestart, hidle⟩, fun hle => by omega⟩

theorem runCycles_cfg {ps : List Pins} {s t : State} (h : runCycles ps s = .next t) :
    t.cfg = s.cfg := by
  induction ps generalizing s with
  | nil => cases h; rfl
  | cons p ps ih =>
    obtain ⟨u, hu, hrest⟩ := runCycles_cons_next.1 h
    exact (ih hrest).trans (cycle_cfg hu)

/-! ### Ticks every P cycles -/

theorem countP_eq_count {α : Type} {f : α → Bool} {p : Nat → Prop} [DecidablePred p] {l : List α}
    (h : ∀ (k : Nat) (hk : k < l.length), f l[k] = decide (p k)) :
    l.countP f = Nat.count p l.length := by
  induction l generalizing p with
  | nil => simp
  | cons a l ih =>
    have htail := ih (p := fun k => p (k + 1)) fun k hk => h (k + 1) (Nat.succ_lt_succ hk)
    have hhead : f a = decide (p 0) := h 0 (Nat.succ_pos _)
    rw [List.countP_cons, List.length_cons, Nat.count_succ', htail, hhead]
    simp

/-- In m periods there are m ticks, at any phase. -/
theorem count_periodic (m phase : Nat) {period : Nat} (hp : 1 ≤ period) :
    Nat.count (fun k => (k + phase) % period = 0) (m * period) = m := by
  have hcomplement : (period - 1) * phase + phase ≡ 0 [MOD period] := by
    rw [← Nat.succ_mul, Nat.succ_eq_add_one, Nat.sub_add_cancel hp]
    exact Nat.modEq_zero_iff_dvd.2 (Nat.dvd_mul_right period phase)
  have hresidue : ∀ k, (k + phase) % period = 0 ↔ k ≡ (period - 1) * phase [MOD period] := by
    intro k
    rw [← Nat.dvd_iff_mod_eq_zero, ← Nat.modEq_zero_iff_dvd]
    exact ⟨fun h => (h.trans hcomplement.symm).add_right_cancel' phase,
      fun h => (h.add_right phase).trans hcomplement⟩
  simp only [hresidue]
  rw [Nat.count_modEq_card _ hp, Nat.mul_div_cancel _ hp, Nat.mul_mod_left,
    if_neg (Nat.not_lt_zero _), Nat.add_zero]

/-- Settles O23: the count of ticks seen starts at the byte's cycle, grows with the ticks alone, and ends
the wait when it reaches TH; of ticks every P cycles m come in m · P cycles. -/
theorem fireComesWithinItsBand : Obligations.FireComesWithinItsBand := by
  intro p ps s u t hi hr hb hu hidle hrs hbytes ht
  have hcfgu : u.cfg = s.cfg := cycle_cfg hu
  have hcfg : t.cfg = s.cfg := (runCycles_cfg ht).trans hcfgu
  obtain ⟨-, -, -, -, -, -, -, hth, -⟩ := wellFormed_facts hi.1.1
  have hstart : TicksSeen 0 u := ticksSeen_byte hr hb hu hidle (hcfgu ▸ hth)
  have harmed : t.bt.armed = decide (ps.countP (fun q => q.tick) < s.cfg.idleThreshold) := by
    rw [(hstart.after_runCycles hrs hbytes ht).armed, Nat.zero_add, hcfg]
  refine ⟨harmed, fun period phase hp hticks => ?_⟩
  have hmono := Nat.count_monotone (fun k => (k + phase) % period = 0)
  rw [harmed, countP_eq_count hticks, decide_eq_true_eq, decide_eq_false_iff_not, Nat.not_lt]
  refine ⟨fun hle => ?_, fun hle => ?_⟩
  · have hcount := hmono hle
    rw [count_periodic _ phase hp] at hcount
    omega
  · have hcount := hmono hle
    rwa [count_periodic _ phase hp] at hcount

end Sys2Proof.Machine

/-! SUPPORT. The CommandDecoder (43_command_decoder.md): the command that DECODE fetches (R160), the
fields of a decoded command (R161, R162), and DECODE as a function of the live bytes (R166). -/

namespace Sys2Proof.Machine

/-! ## The fetch (43_command_decoder.md R160, 30_encoding.md R81) -/

/-- The format that a burst's first byte selects, read off the live bytes; an empty buffer reads as
the sentinel (30_encoding.md R87). -/
theorem decodeBurst_liveBytes (s : State) :
    decodeBurst (liveBytes s) =
      (if byteAt s 0 = 0 then .cmdLong else .cmdShort (byteAt s 0), (liveBytes s).drop 1) := by
  unfold byteAt
  cases liveBytes s with
  | nil => rfl
  | cons b rest =>
    by_cases h : b = 0
    · subst h
      rfl
    · rw [decodeBurst_short h]
      exact congrArg (·, rest) (if_neg h).symm

theorem popByte_size {s t : State} {b : Byte} (h : popByte s = .ok (b, t)) :
    t.rb.size = s.rb.size - 1 := by
  rw [← length_liveBytes, (popByte_queue h).2, List.length_drop, length_liveBytes]

/-- DECODE is a POP and then the operation whose format the popped byte selects. -/
theorem exec_decode_of_pop {s t : State} {b : Byte} (h : popByte s = .ok (b, t)) :
    exec .decode s = exec (if b = 0 then .cmdLong else .cmdShort b) t := by
  have hdecode : exec .decode s
      = settleWith Ret.command (if b = 0 then longCommand t else shortCommand b t) := by
    change settleWith Ret.command (decodeCommand s) = _
    rw [decodeCommand, h]
  rw [hdecode]
  split <;> rfl

/-- Settles O3: the step is DECODE, DECODE begins with a POP, and the POP takes from the live bytes
what the decoder takes from them. -/
theorem stepRunsTheFetchedCommand : Obligations.StepRunsTheFetchedCommand := by
  intro s rest hc hi ha
  obtain ⟨b, t, hpop⟩ := popByte_total (s := s.setAgenda rest) hi
  obtain ⟨hb, hlive⟩ := popByte_queue hpop
  have hframe := popByte_frame hpop
  rw [popByte_size hpop] at hframe
  rw [decodeBurst_liveBytes]
  refine ⟨t, hlive, hframe, ?_⟩
  rw [stepRunsNextOperation s .decode rest hc ha rfl, exec_decode_of_pop hpop, hb]
  rfl

/-! ## The fields of a decoded command (43_command_decoder.md R161, R162) -/

/-- The reserved bits 7 and 6 of the byte are no part of the command. -/
theorem commandOfShort_decodeShort (sel b : Byte) :
    commandOfShort (decodeShort sel b) = {
      sel := sel, group := b.extractLsb' 4 2, device := b.extractLsb' 2 2,
      state := b.extractLsb' 0 2 } := rfl

theorem commandOfLong_decodeLong (b1 b2 b3 b4 : Byte) :
    commandOfLong (decodeLong b1 b2 b3 b4) = {
      sel := 0, group := b4.extractLsb' 4 2, device := b4.extractLsb' 2 2,
      state := b4.extractLsb' 0 2 } := rfl

/-- Identity slots 4j to 4j+3 are the four PayloadValues of byte j of the run `q`. -/
theorem identOfBytes_getElem (q : Nat → Byte) (k : Fin 12) :
    (identOfBytes (q 0) (q 1) (q 2) (q 3))[k]
      = (q (k.val / 4)).extractLsb' (6 - 2 * (k.val % 4)) 2 := by
  fin_cases k <;> rfl

theorem identOfBytes_last (b1 b2 b3 b4 : Byte) :
    (identOfBytes b1 b2 b3 b4)[12] = b4.extractLsb' 6 2 := rfl

theorem PopFrame.eq_setRb {s t : State} (h : PopFrame s t) (hcustom : t.custom = s.custom) :
    t = s.setRb { s.rb with rd := t.rb.rd, size := t.rb.size } :=
  Eq.trans h (by rw [hcustom]; rfl)

/-! ## CMD_SHORT, CMD_LONG and DECODE (43_command_decoder.md R161, R162, R166) -/

/-- Settles O24, by what CMD_SHORT does to the queue of live bytes and what it leaves. -/
theorem shortCommandReadsOneByte : Obligations.ShortCommandReadsOneByte := by
  intro s sel hi
  obtain ⟨cmd, u, hu⟩ := shortCommand_total sel hi
  obtain ⟨rfl, hlive, hframe, hcustom, -⟩ := shortCommand_cases hu
  exact ⟨u.setRet _, settleWith_next.2 ⟨_, u, hu, rfl⟩,
    congrArg Ret.command (commandOfShort_decodeShort sel (byteAt s 0)), hlive, hcustom,
    congrArg (fun v : State => v.setRet _) (hframe.eq_setRb hcustom)⟩

/-- Settles O25, by what CMD_LONG does to the queue of live bytes and what it leaves. -/
theorem longCommandWritesCustomSlot : Obligations.LongCommandWritesCustomSlot := by
  intro s hi
  obtain ⟨cmd, u, hu⟩ := longCommand_total hi
  obtain ⟨rfl, hcustom, hlive, hframe, -⟩ := longCommand_cases hu
  refine ⟨u.setRet _, settleWith_next.2 ⟨_, u, hu, rfl⟩,
    congrArg Ret.command (commandOfLong_decodeLong ..), ?_, ?_, hlive,
    congrArg (fun v : State => v.setRet _) hframe⟩
  · rw [State.setRet_custom, hcustom]
    exact identOfBytes_getElem (byteAt s)
  · rw [State.setRet_custom, hcustom, identOfBytes_last]

/-- Settles O26: of DECODE's two formats the first live byte excludes one, and the long one's
operands stand one byte further on. -/
theorem decodeIsAFunctionOfTheBuffer : Obligations.DecodeIsAFunctionOfTheBuffer := by
  intro s hi
  obtain ⟨cmd, u, hu⟩ := decodeCommand_total hi
  refine ⟨u.setRet (.command cmd), settleWith_next.2 ⟨cmd, u, hu, rfl⟩, ?_⟩
  obtain ⟨⟨h0, rfl, hlive, hcustom⟩ | ⟨h0, rfl, hlive, hcustom⟩, -⟩ := decodeCommand_cases hu
  · refine ⟨fun _ => ⟨?_, hlive, hcustom⟩, fun h => absurd h h0⟩
    exact congrArg Ret.command (commandOfShort_decodeShort ..)
  · refine ⟨fun h => absurd h0 h, fun _ => ⟨?_, ?_, ?_, hlive⟩⟩
    · exact congrArg Ret.command (commandOfLong_decodeLong ..)
    · rw [State.setRet_custom, hcustom]
      exact identOfBytes_getElem fun i => byteAt s (i + 1)
    · rw [State.setRet_custom, hcustom, identOfBytes_last]

end Sys2Proof.Machine

/-! SUPPORT. The PulseEncoder and the SymbolTable (44_pulse_encoder.md): what each EMIT operation appends
(R181 to R185), a frame as the symbols of its pattern bits (R186, R187) built by its EMIT operations, and
the round trip from a frame's segments to its PayloadValues (R189). -/

namespace Sys2Proof.Machine

/-! ## The symbols (44_pulse_encoder.md R181 to R185) -/

theorem exec_emitZero (s : State) : exec .emitZero s = .next (emitSegs (zeroSegs s.cfg) s) := rfl

theorem exec_emitOne (s : State) : exec .emitOne s = .next (emitSegs (oneSegs s.cfg) s) := rfl

theorem exec_emitInit (s : State) : exec .emitInit s = .next (emitSegs (initSegs s.cfg) s) := rfl

theorem exec_emitEndGap (s : State) : exec .emitEndGap s = .next (emitSegs (endGapSegs s.cfg) s) := rfl

/-- Settles O27: each of the four appends a pulse of its own multiple. -/
theorem longSymbolSegments : Obligations.LongSymbolSegments := by
  intro s
  exact ⟨exec_emitZero s, exec_emitOne s, exec_emitInit s, exec_emitEndGap s⟩

theorem oneLongGapFirst_of_some {c : Config} {first : Bool} (h : c.shortOneLongGapFirst = some first) :
    oneLongGapFirst c = first := by
  simp [oneLongGapFirst, h]

/-- Settles O28: where the parameter is given, it is the order in which the two shapes stand. -/
theorem shortBitSegments : Obligations.ShortBitSegments := by
  intro s first h
  rw [exec_emitSbit1, exec_emitSbit0, oneLongGapFirst_of_some h, lateSegs_eq, earlySegs_eq]
  exact ⟨rfl, rfl⟩

/-! ## A frame as the symbols of its pattern bits (44_pulse_encoder.md R186, R187) -/

/-- The segments of one pattern bit under a protocol. -/
def symbolSegs (p : Protocol) (c : Config) (bit : Bool) : List Segment :=
  match p with
  | .long => if bit then oneSegs c else zeroSegs c
  | .short => if bit then sbit1Segs c else sbit0Segs c

/-- The pattern bits of a PayloadValue under the build's protocol. -/
def valueBits (c : Config) (v : PV) : List Bool :=
  match c.protocol with
  | .long => patternBits (longPattern c v)
  | .short => patternBits (shortPattern c v)

/-- The segments of a PayloadValue under the build's protocol. -/
def valueSegs (c : Config) (v : PV) : List Segment :=
  (valueBits c v).flatMap (symbolSegs c.protocol c)

theorem valueSegs_long {c : Config} (hp : c.protocol = .long) (v : PV) :
    valueSegs c v = (patternBits (longPattern c v)).flatMap (symbolSegs .long c) := by
  simp only [valueSegs, valueBits, hp]

theorem valueSegs_short {c : Config} (hp : c.protocol = .short) (v : PV) :
    valueSegs c v = (patternBits (shortPattern c v)).flatMap (symbolSegs .short c) := by
  simp only [valueSegs, valueBits, hp]

theorem length_valueSegs (c : Config) (v : PV) : (valueSegs c v).length = 8 := by
  cases hp : c.protocol with
  | long => rw [valueSegs_long hp]; exact length_patLong c v
  | short => rw [valueSegs_short hp]; exact length_patShort c v

theorem frame_eq_valueSegs (c : Config) (ident : Identity) (cmd : Command) :
    frame c ident cmd = initSegs c ++ (payload ident cmd).flatMap (valueSegs c) ++ endGapSegs c := by
  cases hp : c.protocol with
  | long =>
    rw [funext (valueSegs_long hp)]
    simp only [frame, hp]
    rfl
  | short =>
    rw [funext (valueSegs_short hp)]
    simp only [frame, hp]
    rfl

theorem frameOps_eq_valueBits (c : Config) (ident : Identity) (cmd : Command) :
    frameOps c ident cmd = [.emitInit]
      ++ ((payload ident cmd).flatMap (valueBits c)).map (decodeSymbol c.protocol)
      ++ [.emitEndGap] := by
  rw [List.map_flatMap]
  rfl

/-! ## Running the EMIT operations -/

@[simp] theorem emitSegs_cfg (segs : List Segment) (s : State) : (emitSegs segs s).cfg = s.cfg := rfl

theorem emitSegs_nil (s : State) : emitSegs [] s = s := by
  simp [emitSegs]

theorem emitSegs_emitSegs (segs segs' : List Segment) (s : State) :
    emitSegs segs' (emitSegs segs s) = emitSegs (segs ++ segs') s := by
  simp [emitSegs]

theorem exec_decodeSymbol (p : Protocol) (bit : Bool) (s : State) :
    exec (decodeSymbol p bit) s = .next (emitSegs (symbolSegs p s.cfg bit) s) := by
  cases p <;> cases bit <;> rfl

theorem runOps_decodeSymbols (p : Protocol) (bits : List Bool) (s : State) :
    runOps (bits.map (decodeSymbol p)) s = .next (emitSegs (bits.flatMap (symbolSegs p s.cfg)) s) := by
  induction bits generalizing s with
  | nil => exact congrArg Host.Outcome.next (emitSegs_nil s).symm
  | cons bit bits ih =>
    rw [List.map_cons, runOps_cons_of (exec_decodeSymbol p bit s), ih, emitSegs_emitSegs]
    rfl

/-- Settles O30: the symbols of all the pattern bits between Init and the end gap are the frame. -/
theorem emitOperationsBuildTheFrame : Obligations.EmitOperationsBuildTheFrame := by
  intro s ident cmd
  have hframe : frame s.cfg ident cmd = initSegs s.cfg
      ++ ((payload ident cmd).flatMap (valueBits s.cfg)).flatMap (symbolSegs s.cfg.protocol s.cfg)
      ++ endGapSegs s.cfg := by
    rw [frame_eq_valueSegs, List.flatMap_assoc]
    rfl
  rw [frameOps_eq_valueBits, List.append_assoc, List.singleton_append, runOps_cons_of (exec_emitInit s),
    runOps_append_of (runOps_decodeSymbols _ _ _), runOps_singleton, exec_emitEndGap,
    emitSegs_emitSegs, emitSegs_emitSegs, hframe]
  simp only [emitSegs_cfg, List.append_assoc]
  rfl

/-! ## Tables whose entries are distinct (00_scope.md R20) -/

theorem pairwiseDistinct_iff_nodup {α : Type} [DecidableEq α] {l : List α} :
    pairwiseDistinct l = true ↔ l.Nodup := by
  induction l with
  | nil => simp [pairwiseDistinct]
  | cons a l ih => simp [pairwiseDistinct, ih]

theorem get_toFin_injective {α : Type} [DecidableEq α] {table : Vector α 4}
    (h : pairwiseDistinct table.toList = true) :
    Function.Injective fun v : PV => table.get v.toFin := by
  intro v u hvu
  have hget : table.toList[v.toNat]'(by simp; omega) = table.toList[u.toNat]'(by simp; omega) := hvu
  exact BitVec.eq_of_toNat_eq ((pairwiseDistinct_iff_nodup.1 h).getElem_inj_iff.1 hget)

theorem longPattern_injective {c : Config} (hc : c.wellFormed = true) :
    Function.Injective (longPattern c) := by
  simp only [Config.wellFormed, Bool.and_eq_true] at hc
  obtain ⟨⟨⟨-, htable⟩, -⟩, -⟩ := hc
  exact get_toFin_injective htable

theorem shortPattern_injective {c : Config} (hc : c.wellFormed = true) (hp : c.protocol = .short) :
    Function.Injective (shortPattern c) := by
  simp only [Config.wellFormed, Bool.and_eq_true, hp, Config.shortWellFormed] at hc
  obtain ⟨⟨-, ⟨htable, -⟩, -⟩, -⟩ := hc
  exact get_toFin_injective htable

theorem patternBits_injective {w : Nat} :
    Function.Injective (patternBits : BitVec w → List Bool) := by
  intro p q h
  refine BitVec.eq_of_getMsbD_eq fun i hi => ?_
  exact List.map_inj_left.1 h i (List.mem_range.2 hi)

/-- An injective table is inverted on the bits of each of its patterns. -/
theorem valueOfBits_patternBits {w : Nat} {pattern : PV → BitVec w}
    (h : Function.Injective pattern) (v : PV) :
    valueOfBits pattern (patternBits (pattern v)) = some v := by
  have hsame : ∀ u, (patternBits (pattern u) == patternBits (pattern v)) = (u == v) := fun u =>
    Bool.eq_iff_iff.2 (by
      simpa only [beq_iff_eq, Function.comp_apply] using (patternBits_injective.comp h).eq_iff)
  have hfind : ∀ v : PV, ([0, 1, 2, 3] : List PV).find? (· == v) = some v := by decide
  simp only [valueOfBits, hsame, hfind]

/-! ## Reading one symbol back (44_pulse_encoder.md R189) -/

/-- The low hold of a LONG symbol. -/
def longLow (c : Config) (bit : Bool) : Segment :=
  ⟨false, (if bit then c.oneLowMult else c.zeroLowMult) * c.t⟩

theorem symbolSegs_long (c : Config) (bit : Bool) :
    symbolSegs .long c bit = [⟨true, c.t⟩, longLow c bit] := by
  cases bit <;> rfl

theorem readLongBit_longLow {c : Config} (hc : c.wellFormed = true) (bit : Bool) :
    readLongBit c (longLow c bit) = some bit := by
  obtain ⟨ht, -, -, -, -, hne, -⟩ := wellFormed_facts hc
  have hlow : c.oneLowMult * c.t ≠ c.zeroLowMult * c.t := fun h =>
    hne (Nat.eq_of_mul_eq_mul_right ht h).symm
  cases bit <;> simp [readLongBit, longLow, hlow]

/-- The low hold of a sub-pulse of a SHORT bit: the long gap or T. -/
def shortGap (c : Config) (long : Bool) : Segment :=
  ⟨false, if long then c.shortLongLowMult * c.t else c.t⟩

/-- A SHORT bit's long gap comes first exactly if the bit has the value that says so (R185). -/
theorem symbolSegs_short (c : Config) (bit : Bool) :
    symbolSegs .short c bit = [⟨true, c.t⟩, shortGap c (bit == oneLongGapFirst c),
      ⟨true, c.t⟩, shortGap c (bit != oneLongGapFirst c)] := by
  cases bit <;> cases h : oneLongGapFirst c <;>
    simp [symbolSegs, sbit0Segs, sbit1Segs, h, lateSegs_eq, earlySegs_eq, shortGap]

theorem readShortBit_shortGap {c : Config} (hc : c.wellFormed = true) (hp : c.protocol = .short)
    (bit : Bool) :
    readShortBit c (shortGap c (bit == oneLongGapFirst c)) (shortGap c (bit != oneLongGapFirst c))
      = some bit := by
  obtain ⟨ht, -, -, -, -, -, -, -, -, -, hmult⟩ := wellFormed_facts hc
  have hgap : c.t ≠ c.shortLongLowMult * c.t := by
    have htwice := Nat.mul_le_mul_right c.t (hmult hp)
    omega
  cases bit <;> cases h : oneLongGapFirst c <;> simp [readShortBit, shortGap, h, hgap]

/-! ## Reading a PayloadValue back (44_pulse_encoder.md R189) -/

theorem readValue_long {c : Config} (hp : c.protocol = .long) {b0 b1 b2 b3 : Bool}
    {h0 h1 h2 h3 l0 l1 l2 l3 : Segment} (hl0 : readLongBit c l0 = some b0)
    (hl1 : readLongBit c l1 = some b1) (hl2 : readLongBit c l2 = some b2)
    (hl3 : readLongBit c l3 = some b3) :
    readValue c [h0, l0, h1, l1, h2, l2, h3, l3] = valueOfBits (longPattern c) [b0, b1, b2, b3] := by
  simp only [readValue, hp, hl0, hl1, hl2, hl3]

theorem readValue_short {c : Config} (hp : c.protocol = .short) {b0 b1 : Bool}
    {h0 h1 h2 h3 g0 g1 g2 g3 : Segment} (hb0 : readShortBit c g0 g1 = some b0)
    (hb1 : readShortBit c g2 g3 = some b1) :
    readValue c [h0, g0, h1, g1, h2, g2, h3, g3] = valueOfBits (shortPattern c) [b0, b1] := by
  simp only [readValue, hp, hb0, hb1]

theorem readValue_valueSegs {c : Config} (hc : c.wellFormed = true) (v : PV) :
    readValue c (valueSegs c v) = some v := by
  cases hp : c.protocol with
  | long =>
    rw [← valueOfBits_patternBits (longPattern_injective hc) v, valueSegs_long hp, patternBits_four]
    simp only [List.flatMap_cons, List.flatMap_nil, symbolSegs_long, List.cons_append, List.nil_append]
    exact readValue_long hp (readLongBit_longLow hc _) (readLongBit_longLow hc _)
      (readLongBit_longLow hc _) (readLongBit_longLow hc _)
  | short =>
    rw [← valueOfBits_patternBits (shortPattern_injective hc hp) v, valueSegs_short hp,
      patternBits_two]
    simp only [List.flatMap_cons, List.flatMap_nil, symbolSegs_short, List.cons_append, List.nil_append]
    exact readValue_short hp (readShortBit_shortGap hc hp _) (readShortBit_shortGap hc hp _)

/-! ## Reading a frame back (44_pulse_encoder.md R189) -/

/-- Where every block of a `flatMap` has `n` elements, block `i` starts at `n * i`. -/
theorem take_drop_flatMap_append {α β : Type} {f : α → List β} {n : Nat}
    (hf : ∀ a, (f a).length = n) {l : List α} {i : Nat} (hi : i < l.length) (rest : List β) :
    ((l.flatMap f ++ rest).drop (n * i)).take n = f l[i] := by
  induction l generalizing i with
  | nil => simp at hi
  | cons a l ih =>
    rw [List.flatMap_cons, List.append_assoc]
    cases i with
    | zero => exact List.take_left' (hf a)
    | succ i =>
      rw [Nat.mul_succ, Nat.add_comm, ← List.drop_drop, List.drop_left' (hf a)]
      exact ih (by simpa using hi)

theorem take_drop_frame (c : Config) (ident : Identity) (cmd : Command) {i : Nat}
    (hi : i < (payload ident cmd).length) :
    ((frame c ident cmd).drop (2 + 8 * i)).take 8 = valueSegs c (payload ident cmd)[i] := by
  have hinit : (initSegs c).length = 2 := length_pulse c _
  rw [frame_eq_valueSegs, List.append_assoc, ← List.drop_drop, List.drop_left' hinit]
  exact take_drop_flatMap_append (length_valueSegs c) hi (endGapSegs c)

/-- Settles O31: position `i` of a frame is the segments of its PayloadValue, which are read back. -/
theorem frameReadsBack : Obligations.FrameReadsBack := by
  intro c ident cmd i hc hi
  have hi' : i < (payload ident cmd).length := by rwa [length_payload]
  rw [take_drop_frame c ident cmd hi', readValue_valueSegs hc, List.getElem?_eq_getElem hi']

end Sys2Proof.Machine

/-! SUPPORT. The cycle-level sequencer (45_frame_transmitter.md R205): what a cycle leaves of the
transmitter during a send, how that follows the waveform, and what the line shows cycle by cycle
(R180, 10_state.md R44). -/

namespace Sys2Proof.Machine

/-! ## The transmitter of a run -/

theorem txOut_idle {s : State} (h : s.tx.active = false) : txOut s = false := by
  simp [txOut, h]

theorem txOut_sending {s : State} {seg : Segment} {rest : List Segment} (hsend : s.tx.active = true)
    (hw : s.tx.wave = seg :: rest) : txOut s = seg.level := by
  simp [txOut, hsend, hw]

/-- During a send of a run the current segment and the ones after it are the waveform's from `tx.idx`
on. -/
theorem TxInv.position {s : State} (hi : TxInv s) (hsend : s.tx.active = true) :
    ∃ cur rest, s.tx.wave = cur :: rest ∧ (waveOf s s.tx.cmd)[s.tx.idx]? = some cur
      ∧ (waveOf s s.tx.cmd)[s.tx.idx + 1]? = rest.head? := by
  obtain ⟨-, hne, hdrop, -, -⟩ := hi.2 hsend
  obtain ⟨cur, rest, hw⟩ := List.exists_cons_of_ne_nil hne
  rw [hw] at hdrop
  refine ⟨cur, rest, hw, ?_, ?_⟩
  · rw [← List.head?_drop, ← hdrop, List.head?_cons]
  · rw [← List.head?_drop, ← List.drop_drop, ← hdrop, List.drop_one, List.tail_cons]

/-! ## One cycle of a send (45_frame_transmitter.md R205) -/

/-- The transmitter after one cycle of a send: one cycle less in the segment, or the next segment. -/
def txNextCycle (c : Config) (tx : Tx) : Tx :=
  if 1 < tx.cnt then { tx with cnt := tx.cnt - 1 } else txAfter c tx tx.wave.tail

theorem txNextCycle_inside {c : Config} {tx : Tx} (h : 1 < tx.cnt) :
    txNextCycle c tx = { tx with cnt := tx.cnt - 1 } := if_pos h

theorem txNextCycle_segEnd {c : Config} {tx : Tx} (h : ¬ 1 < tx.cnt) :
    txNextCycle c tx = txAfter c tx tx.wave.tail := if_neg h

theorem txNextCycle_cmd (c : Config) (tx : Tx) : (txNextCycle c tx).cmd = tx.cmd := by
  unfold txNextCycle
  split
  · rfl
  · exact txAfter_cmd c tx _

/-- The tick's part of a cycle does nothing during a send (42_burst_timer.md R142). -/
theorem tick_ignored {b : Bool} {s t : State} (hsend : s.tx.active = true)
    (h : runOps (if b then [.onTick] else []) s = .next t) : t = s := by
  rcases tick_cases h with ⟨-, htick⟩ | ⟨-, rfl⟩
  · rw [onTickOp_active hsend] at htick
    exact (Except.ok.inj htick).symm
  · rfl

/-- A cycle of a send moves the transmitter as R205 says and keeps the custom slot. -/
theorem cycle_sending_tx {s t : State} {p : Pins} (hr : p.rst = false) (hsend : s.tx.active = true)
    (h : cycle p s = .next t) : t.tx = txNextCycle s.cfg s.tx ∧ t.custom = s.custom := by
  obtain ⟨-, s1, s2, s3, h1, h2, h3, rfl⟩ := cycle_cases hr h
  have htx1 : s1.tx = s.tx := by rw [receiver_frame h1]; rfl
  have hcustom1 : s1.custom = s.custom := by rw [receiver_frame h1]; rfl
  have hcfg1 : s1.cfg = s.cfg := by rw [receiver_frame h1]; rfl
  obtain rfl := tick_ignored (htx1 ▸ hsend) h2
  by_cases hcnt : 1 < s.tx.cnt
  · have htx3 := tx_inside_segment hsend hcnt h1 h2 h3
    have hsegEnd : (portWord s p).segEnd = false := by simp [portWord, Nat.not_le.2 hcnt]
    rw [hsegEnd] at h3
    cases h3
    rw [txNextCycle_inside hcnt, ← htx3, ← hcustom1]
    simp [countCycle, hsend, hcnt, htx1]
  · have hsegEnd : (portWord s p).segEnd = true := by simp [portWord, hsend, Nat.not_lt.1 hcnt]
    have hcount : countCycle s s3 = s3 := by simp [countCycle, hcnt]
    rw [hsegEnd, if_pos rfl, runOps_singleton] at h3
    rw [txNextCycle_segEnd hcnt, hcount]
    rcases stepTx_cases (settle_next.1 h3) with ⟨hidle, -⟩ | ⟨-, seg, rest, hw, rfl⟩
    · simp [htx1, hsend] at hidle
    · rw [htx1] at hw
      simp [htx1, hcfg1, hcustom1, hw]

/-- Settles O45: the transmitter after the cycle is `txNextCycle`, and the segment that comes next in what
is left of the waveform is the one at `tx.idx + 1`. -/
theorem sequencerFollowsTheWaveform : Obligations.SequencerFollowsTheWaveform := by
  intro s t p hi hsend hr h W
  obtain ⟨htx, hcustom⟩ := cycle_sending_tx hr hsend h
  obtain ⟨cur, rest, hw, hcur, hnext⟩ := hi.2.1.position hsend
  have hcmd : t.tx.cmd = s.tx.cmd := by rw [htx, txNextCycle_cmd]
  have hwave : waveOf t t.tx.cmd = W := by rw [hcmd, waveOf_congr (cycle_cfg h) hcustom]
  refine ⟨cur, hcur, txOut_sending hsend hw, hcmd, hwave, fun hcnt => ?_, fun hcnt nxt hnxt => ?_,
    fun hcnt hnone => ?_⟩
  · rw [htx, txNextCycle_inside hcnt]
  · obtain ⟨rest', rfl⟩ : ∃ rest', rest = nxt :: rest' := by
      rw [← List.head?_eq_some_iff, ← hnext]
      exact hnxt
    rw [htx, txNextCycle_segEnd hcnt, hw]
    exact ⟨hsend, rfl, rfl⟩
  · obtain rfl : rest = [] := List.head?_eq_none_iff.1 (hnext.symm.trans hnone)
    have hend : t.tx = txAfter s.cfg s.tx [] := by rw [htx, txNextCycle_segEnd hcnt, hw]; rfl
    refine ⟨?_, ?_, ?_, txOut_idle ?_⟩ <;> rw [hend] <;> rfl

/-! ## The line over a run of cycles (44_pulse_encoder.md R180, 45_frame_transmitter.md R205) -/

theorem lineAhead_idle {s : State} (h : s.tx.active = false) : lineAhead s = [] := by
  simp [lineAhead, h]

theorem sending_of_lineAhead {s : State} (h : lineAhead s ≠ []) : s.tx.active = true :=
  Bool.of_not_eq_false (mt lineAhead_idle h)

theorem lineAhead_sending {s : State} {seg : Segment} {rest : List Segment}
    (hsend : s.tx.active = true) (hw : s.tx.wave = seg :: rest) :
    lineAhead s = List.replicate s.tx.cnt seg.level
      ++ rest.flatMap (fun g => List.replicate (g.dur * s.cfg.cyclesPerUnit) g.level) := by
  simp [lineAhead, hsend, hw]

/-- During a send of a run the line has a cycle ahead, and shows its level. -/
theorem lineAhead_eq_cons {s : State} (hi : TxInv s) (hsend : s.tx.active = true) :
    ∃ levels, lineAhead s = txOut s :: levels := by
  obtain ⟨cur, rest, hw, -⟩ := hi.position hsend
  obtain ⟨-, -, -, hcnt, -⟩ := hi.2 hsend
  obtain ⟨n, hn⟩ : ∃ n, s.tx.cnt = n + 1 := Nat.exists_eq_add_one.2 hcnt
  rw [lineAhead_sending hsend hw, txOut_sending hsend hw, hn, List.replicate_succ]
  exact ⟨_, rfl⟩

/-- A cycle of a send shows the first of the levels ahead and leaves the others ahead. -/
theorem lineAhead_cycle {s t : State} {p : Pins} (hi : TxInv s) (hsend : s.tx.active = true)
    (hr : p.rst = false) (h : cycle p s = .next t) : lineAhead s = txOut s :: lineAhead t := by
  obtain ⟨htx, -⟩ := cycle_sending_tx hr hsend h
  obtain ⟨cur, rest, hw, -⟩ := hi.position hsend
  obtain ⟨-, -, -, hpos, -⟩ := hi.2 hsend
  rw [lineAhead_sending hsend hw, txOut_sending hsend hw]
  by_cases hcnt : 1 < s.tx.cnt
  · rw [txNextCycle_inside hcnt] at htx
    obtain ⟨n, hn⟩ : ∃ n, s.tx.cnt = n + 1 := Nat.exists_eq_add_one.2 hpos
    have hahead := lineAhead_sending (s := t) (by rw [htx]; exact hsend) (by rw [htx]; exact hw)
    rw [hahead, htx, cycle_cfg h, hn, List.replicate_succ, Nat.add_sub_cancel]
    rfl
  · rw [txNextCycle_segEnd hcnt, hw, List.tail_cons] at htx
    have hone : s.tx.cnt = 1 := by omega
    rw [hone, List.replicate_one, List.singleton_append]
    congr 1
    cases rest with
    | nil => rw [lineAhead_idle (by rw [htx]; rfl)]; rfl
    | cons nxt rest =>
      have hahead := lineAhead_sending (s := t) (by rw [htx]; exact hsend) (by rw [htx]; rfl)
      rw [hahead, htx, cycle_cfg h]
      rfl

/-- A run of cycles without a reset leaves ahead what it has not shown yet. -/
theorem lineAhead_runCycles {ps : List Pins} {s t : State} (hi : RunInv s)
    (hr : ∀ p ∈ ps, p.rst = false) (h : runCycles ps s = .next t)
    (hle : ps.length ≤ (lineAhead s).length) :
    RunInv t ∧ lineAhead t = (lineAhead s).drop ps.length := by
  induction ps generalizing s with
  | nil =>
    cases h
    exact ⟨hi, rfl⟩
  | cons p ps ih =>
    obtain ⟨u, hu, hrest⟩ := runCycles_cons_next.1 h
    rw [List.forall_mem_cons] at hr
    have hsend : s.tx.active = true :=
      sending_of_lineAhead (List.ne_nil_of_length_pos (Nat.zero_lt_of_lt hle))
    have hahead := lineAhead_cycle hi.2.1 hsend hr.1 hu
    rw [hahead] at hle ⊢
    exact ih (cycle_runInv hi hu) hr.2 hrest (Nat.le_of_succ_le_succ hle)

/-- Settles O46: what is left of the levels ahead after the run begins with the level that the line shows,
and is empty exactly when the send has ended. -/
theorem lineShowsTheWaveformCycleByCycle : Obligations.LineShowsTheWaveformCycleByCycle := by
  intro ps s t hi _ hr h
  refine ⟨fun hlt => ?_, fun heq => ?_⟩
  · obtain ⟨hit, hahead⟩ := lineAhead_runCycles hi hr h hlt.le
    rw [List.drop_eq_getElem_cons hlt] at hahead
    have hsend : t.tx.active = true := sending_of_lineAhead (hahead ▸ List.cons_ne_nil _ _)
    obtain ⟨levels, hlevels⟩ := lineAhead_eq_cons hit.2.1 hsend
    exact ⟨hsend, List.head_eq_of_cons_eq (hlevels.symm.trans hahead)⟩
  · obtain ⟨hit, hahead⟩ := lineAhead_runCycles hi hr h heq.le
    rw [heq, List.drop_length] at hahead
    have hidle : t.tx.active = false := by
      by_contra hsend
      obtain ⟨levels, hlevels⟩ := lineAhead_eq_cons hit.2.1 (Bool.eq_true_of_not_eq_false hsend)
      exact List.cons_ne_nil _ _ (hlevels.symm.trans hahead)
    exact ⟨hidle, txOut_idle hidle⟩

end Sys2Proof.Machine

/-! SUPPORT. Frames and waveforms (45_frame_transmitter.md): the layout of a frame under either protocol
(R201, R202), its number of segments and its length in time (R209). -/

namespace Sys2Proof.Machine

/-! ## Blocks of equal size -/

/-- Where every block of a `flatMap` has `n` elements, element `k` of block `i` stands at `n * i + k`. -/
theorem getElem?_flatMap_append {α β : Type} {f : α → List β} {n : Nat}
    (hf : ∀ a, (f a).length = n) {l : List α} {i : Nat} {a : α} (ha : l[i]? = some a) {k : Nat}
    (hk : k < n) (rest : List β) : (l.flatMap f ++ rest)[n * i + k]? = (f a)[k]? := by
  obtain ⟨hi, rfl⟩ := List.getElem?_eq_some_iff.1 ha
  rw [← take_drop_flatMap_append hf hi rest, List.getElem?_take_of_lt hk, List.getElem?_drop]

/-- Blocks that each add the same to a sum. -/
theorem sum_map_flatMap_of_const {α β : Type} {f : α → List β} {g : β → Nat} {d : Nat}
    (h : ∀ a, ((f a).map g).sum = d) (l : List α) : ((l.flatMap f).map g).sum = l.length * d := by
  simp [List.flatMap_def, List.map_flatten, List.sum_flatten, Function.comp_def, h]

theorem countP_flatMap_of_const {α β : Type} {f : α → List β} {q : β → Bool} {d : Nat}
    (h : ∀ a, (f a).countP q = d) (l : List α) : (l.flatMap f).countP q = l.length * d := by
  simp [List.countP_flatMap, Function.comp_def, h]

/-! ## The segments of a PayloadValue, bit by bit -/

theorem getElem?_patternBits {w : Nat} (p : BitVec w) {j : Nat} (hj : j < w) :
    (patternBits p)[j]? = some (p.getMsbD j) := by
  simp [patternBits, hj]

/-- Under LONG, bit `j` of a value's pattern is the segments `2j` and `2j + 1`. -/
theorem getElem?_valueSegs_long {c : Config} (hp : c.protocol = .long) (v : PV) {j k : Nat}
    (hj : j < 4) (hk : k < 2) : (valueSegs c v)[2 * j + k]?
      = ([⟨true, c.t⟩, longLow c ((longPattern c v).getMsbD j)] : List Segment)[k]? := by
  rw [valueSegs_long hp, ← symbolSegs_long, ← List.append_nil (List.flatMap _ _)]
  exact getElem?_flatMap_append (fun bit => by rw [symbolSegs_long]; rfl)
    (getElem?_patternBits _ hj) hk []

/-- Under SHORT, bit `j` of a value's pattern is the segments `4j` to `4j + 3`. -/
theorem getElem?_valueSegs_short {c : Config} (hp : c.protocol = .short) (v : PV) {j k : Nat}
    (hj : j < 2) (hk : k < 4) : (valueSegs c v)[4 * j + k]?
      = (symbolSegs .short c ((shortPattern c v).getMsbD j))[k]? := by
  rw [valueSegs_short hp, ← List.append_nil (List.flatMap _ _)]
  exact getElem?_flatMap_append (fun bit => by rw [symbolSegs_short]; rfl)
    (getElem?_patternBits _ hj) hk []

/-! ## The layout of a frame (45_frame_transmitter.md R201, R202) -/

/-- The segments of position `i` of a frame are those of its PayloadValue. -/
theorem getElem?_frame (c : Config) {ident : Identity} {cmd : Command} {i k : Nat} {v : PV}
    (hv : (payload ident cmd)[i]? = some v) (hk : k < 8) :
    (frame c ident cmd)[2 + 8 * i + k]? = (valueSegs c v)[k]? := by
  obtain ⟨hi, rfl⟩ := List.getElem?_eq_some_iff.1 hv
  rw [← take_drop_frame c ident cmd hi, List.getElem?_take_of_lt hk, List.getElem?_drop]

/-- A frame begins with Init and ends with the end gap, under either protocol. -/
theorem getElem?_frame_ends (c : Config) (ident : Identity) (cmd : Command) :
    let f := frame c ident cmd
    f[0]? = some ⟨true, c.t⟩ ∧ f[1]? = some ⟨false, c.initLowMult * c.t⟩
      ∧ f[130]? = some ⟨true, c.t⟩ ∧ f[131]? = some ⟨false, c.gapMult * c.t⟩ := by
  intro f
  have hlength : (initSegs c ++ (payload ident cmd).flatMap (valueSegs c)).length = 130 := by
    rw [List.length_append, length_flatMap_const _ 8 _ (length_valueSegs c), length_payload]
    rfl
  have hgap : ∀ k, f[130 + k]? = (endGapSegs c)[k]? := fun k => by
    rw [← hlength]
    simp only [f, frame_eq_valueSegs, List.getElem?_append_right (Nat.le_add_right _ _),
      Nat.add_sub_cancel_left]
  have hinit : f = initSegs c ++ ((payload ident cmd).flatMap (valueSegs c) ++ endGapSegs c) := by
    rw [← List.append_assoc]
    exact frame_eq_valueSegs c ident cmd
  exact ⟨by rw [hinit]; rfl, by rw [hinit]; rfl, hgap 0, hgap 1⟩

/-- A PayloadValue has four pulses under either protocol. -/
theorem countP_valueSegs (c : Config) (v : PV) : (valueSegs c v).countP (fun g => g.level) = 4 := by
  cases hp : c.protocol with
  | long =>
    rw [valueSegs_long hp,
      countP_flatMap_of_const (d := 1) (fun bit => by rw [symbolSegs_long]; rfl)]
    rfl
  | short =>
    rw [valueSegs_short hp,
      countP_flatMap_of_const (d := 2) (fun bit => by rw [symbolSegs_short]; rfl)]
    rfl

theorem countP_frame (c : Config) (ident : Identity) (cmd : Command) :
    (frame c ident cmd).countP (fun g => g.level) = 66 := by
  rw [frame_eq_valueSegs, List.countP_append, List.countP_append,
    countP_flatMap_of_const (countP_valueSegs c), length_payload]
  rfl

/-- Settles O32: position `i` holds its value's segments, of which bit `j` is one pair. -/
theorem longFrameLayout : Obligations.LongFrameLayout := by
  intro c ident cmd hp f
  obtain ⟨h0, h1, h130, h131⟩ := getElem?_frame_ends c ident cmd
  refine ⟨length_frame c ident cmd, countP_frame c ident cmd, h0, h1, h130, h131,
    fun i j v _ hj hv => ?_⟩
  have hbit : ∀ k < 2, f[2 + 8 * i + (2 * j + k)]?
      = ([⟨true, c.t⟩, longLow c ((longPattern c v).getMsbD j)] : List Segment)[k]? := fun k hk => by
    rw [getElem?_frame c hv (by omega), getElem?_valueSegs_long hp v hj hk]
  refine ⟨hbit 0 (by decide), ?_⟩
  rw [show 3 + 8 * i + 2 * j = 2 + 8 * i + (2 * j + 1) by omega]
  exact hbit 1 (by decide)

/-- Settles O33: position `i` holds its value's segments, of which bit `j` is one group of four. -/
theorem shortFrameLayout : Obligations.ShortFrameLayout := by
  intro c ident cmd first hp hfirst f L
  obtain ⟨h0, h1, h130, h131⟩ := getElem?_frame_ends c ident cmd
  refine ⟨length_frame c ident cmd, countP_frame c ident cmd, h0, h1, h130, h131,
    fun i j v _ hj hv => ?_⟩
  intro early
  have hshape : symbolSegs .short c ((shortPattern c v).getMsbD j)
      = [⟨true, c.t⟩, ⟨false, if early then L else c.t⟩, ⟨true, c.t⟩,
        ⟨false, if early then c.t else L⟩] := by
    rw [symbolSegs_short, oneLongGapFirst_of_some hfirst]
    have hearly : ((shortPattern c v).getMsbD j == first) = early := rfl
    have hlate : ((shortPattern c v).getMsbD j != first) = !early := rfl
    rw [hearly, hlate]
    cases early <;> rfl
  have hbit : ∀ k < 4, f[2 + k + 8 * i + 4 * j]?
      = (symbolSegs .short c ((shortPattern c v).getMsbD j))[k]? := fun k hk => by
    rw [← getElem?_valueSegs_short hp v hj hk, ← getElem?_frame c hv (by omega)]
    congr 1
    omega
  rw [hshape] at hbit
  exact ⟨hbit 0 (by decide), hbit 1 (by decide), hbit 2 (by decide), hbit 3 (by decide)⟩

/-! ## The length of a frame (45_frame_transmitter.md R209) -/

theorem sum_dur_frame {c : Config} {d : Nat} (h : ∀ v, ((valueSegs c v).map Segment.dur).sum = d)
    (ident : Identity) (cmd : Command) : ((frame c ident cmd).map Segment.dur).sum
      = (c.t + c.initLowMult * c.t) + 16 * d + (c.t + c.gapMult * c.t) := by
  rw [frame_eq_valueSegs, List.map_append, List.map_append, List.sum_append, List.sum_append,
    sum_map_flatMap_of_const h, length_payload]
  simp [initSegs, endGapSegs, pulse]

theorem sum_dur_symbolSegs_long (c : Config) (bits : List Bool) :
    ((bits.flatMap (symbolSegs .long c)).map Segment.dur).sum
      = (bits.length + bits.count true * c.oneLowMult + bits.count false * c.zeroLowMult) * c.t := by
  induction bits with
  | nil => simp
  | cons bit bits ih =>
    rw [List.flatMap_cons, List.map_append, List.sum_append, ih, symbolSegs_long]
    cases bit <;> simp [longLow] <;> ring

/-- Under LONG every pattern of the default table has two bits of each value. -/
theorem sum_dur_valueSegs_long {c : Config} (hp : c.protocol = .long) (hzero : c.zeroLowMult = 1)
    (hone : c.oneLowMult = 5)
    (htable : c.symbolTableLong = #v[0b0101, 0b0110, 0b1001, 0b1010]) (v : PV) :
    ((valueSegs c v).map Segment.dur).sum = 16 * c.t := by
  obtain ⟨htwo, htwo'⟩ : (patternBits (longPattern c v)).count true = 2
      ∧ (patternBits (longPattern c v)).count false = 2 := by
    rw [longPattern, htable]
    revert v
    decide
  rw [valueSegs_long hp, sum_dur_symbolSegs_long, htwo, htwo', hzero, hone]
  rfl

/-- Under SHORT each of the two bits of a value lasts `3·T + L`. -/
theorem sum_dur_valueSegs_short {c : Config} (hp : c.protocol = .short) (v : PV) :
    ((valueSegs c v).map Segment.dur).sum = 2 * (3 * c.t + c.shortLongLowMult * c.t) := by
  rw [valueSegs_short hp, sum_map_flatMap_of_const (d := 3 * c.t + c.shortLongLowMult * c.t)]
  · rfl
  · intro bit
    rw [symbolSegs_short]
    cases hfirst : oneLongGapFirst c <;> cases bit <;> simp [shortGap] <;> omega

/-- Settles O34: the frame's length is the sum over its 16 values, which do not depend on the value. -/
theorem frameDuration : Obligations.FrameDuration := by
  intro c ident cmd hinit hgap total L
  refine ⟨length_frame c ident cmd, countP_frame c ident cmd, ?_, fun hp hzero hone htable => ?_,
    fun hp => ?_⟩
  · simp [wave, List.map_flatten, List.sum_flatten, total]
  · have hsum := sum_dur_frame (sum_dur_valueSegs_long hp hzero hone htable) ident cmd
    rw [hinit, hgap] at hsum
    simp only [total]
    omega
  · have hsum := sum_dur_frame (sum_dur_valueSegs_short hp) ident cmd
    rw [hinit, hgap] at hsum
    simp only [total, L]
    omega

end Sys2Proof.Machine

/-! SUPPORT. The FrameTransmitter's operations (45_frame_transmitter.md): SEND (R200) and the waveform it
starts (R203), TX_STEP (R204), the end of a send (R206), that nothing but a reset disturbs one (R207),
and that two sends of one command are equal (R208). -/

namespace Sys2Proof.Machine

/-! ## SEND (45_frame_transmitter.md R200) -/

theorem exec_send (cmd : Command) (s : State) : exec (.send cmd) s = .next (sendCommand cmd s) := rfl

theorem sendCommand_dropped {cmd : Command} {s : State}
    (h : selectorOutOfRange s.cfg cmd = true ∨ waveOf s cmd = []) : sendCommand cmd s = s := by
  rcases sendCommand_cases cmd s with ⟨-, hs⟩ | ⟨hsel, seg, rest, hw, -⟩
  · exact hs
  · simp [hsel, hw] at h

theorem sendCommand_starts {cmd : Command} {s : State} {seg : Segment} {rest : List Segment}
    (hsel : selectorOutOfRange s.cfg cmd = false) (hw : waveOf s cmd = seg :: rest) :
    sendCommand cmd s = s.setTx
      { active := true, cmd := cmd, wave := waveOf s cmd, idx := 0,
        cnt := seg.dur * s.cfg.cyclesPerUnit } := by
  simp [sendCommand, hsel, hw]

theorem selectorOutOfRange_eq_false {c : Config} {cmd : Command} (h : cmd.sel.toNat < c.numProfiles) :
    selectorOutOfRange c cmd = false :=
  decide_eq_false (Nat.not_le.2 h)

theorem waveOf_eq_nil {s : State} {cmd : Command} : waveOf s cmd = [] ↔ s.cfg.repeatCount = 0 :=
  wave_eq_nil

theorem length_waveOf (s : State) (cmd : Command) :
    (waveOf s cmd).length = 132 * s.cfg.repeatCount :=
  length_wave ..

/-- Settles O36: REPEAT = 0 is the empty waveform, and any other waveform starts with a high segment of
T. -/
theorem sendStartsTheWaveform : Obligations.SendStartsTheWaveform := by
  intro s cmd
  refine ⟨fun hsel => ?_, fun _ hrepeat => ?_, fun hsel hrepeat => ?_, fun hsel => ?_,
    fun ident hsel hprofile => ?_⟩
  · rw [exec_send, sendCommand_dropped (.inl (decide_eq_true hsel))]
  · rw [exec_send, sendCommand_dropped (.inr (waveOf_eq_nil.2 hrepeat))]
  · obtain ⟨⟨rest, hw⟩, -⟩ := wave_ends hrepeat
    rw [exec_send, sendCommand_starts (selectorOutOfRange_eq_false hsel) hw]
  · simp [waveOf, profileOf, hsel]
  · have hne : cmd.sel.toNat ≠ 0 := fun h => hsel (BitVec.eq_of_toNat_eq h)
    simp [waveOf, profileOf, hne, hprofile]

/-! ## The waveform of a send (45_frame_transmitter.md R203) -/

/-- Settles O35: the waveform is one block of 132 segments for each of the REPEAT frames. -/
theorem waveIsRepeatedFrames : Obligations.WaveIsRepeatedFrames := by
  intro s cmd f
  refine ⟨length_wave .., fun r hr => ?_, fun hrepeat => ?_⟩
  · have hblocks : waveOf s cmd = (List.replicate s.cfg.repeatCount ()).flatMap (fun _ => f) ++ [] := by
      rw [List.append_nil, List.flatMap_def, List.map_replicate]
      rfl
    rw [hblocks]
    exact take_drop_flatMap_append (fun _ => length_frame ..) (by simpa using hr) []
  · rw [exec_send, sendCommand_dropped (.inr (wave_eq_nil.2 hrepeat))]

/-! ## TX_STEP (45_frame_transmitter.md R204) -/

theorem exec_txStep_sending {s : State} {seg : Segment} {rest : List Segment}
    (hsend : s.tx.active = true) (hw : s.tx.wave = seg :: rest) :
    exec .txStep s
      = .next ((s.setTx (txAfter s.cfg s.tx rest)).setTrace (s.trace ++ [seg])) :=
  settle_next.2 (by simp [stepTx, hsend, hw])

/-- Settles O37, by the one equation of TX_STEP during a send. -/
theorem txStepEmitsOneSegment : Obligations.TxStepEmitsOneSegment := by
  intro s seg rest hsend hw
  exact ⟨_, exec_txStep_sending hsend hw, rfl, txAfter_wave .., txAfter_active _ _ _ hsend,
    txAfter_cmd .., rfl⟩

/-! ## A whole send (45_frame_transmitter.md R208) -/

/-- As many TX_STEPs as there are segments left emit them all and end the send. -/
theorem runOps_txSteps {seg : Segment} {rest : List Segment} {s : State}
    (hsend : s.tx.active = true) (hw : s.tx.wave = seg :: rest) :
    ∃ t, runOps (List.replicate (rest.length + 1) .txStep) s = .next t
      ∧ t.trace = s.trace ++ seg :: rest ∧ t.tx.active = false ∧ t.custom = s.custom := by
  induction rest generalizing s seg with
  | nil =>
    exact ⟨_, runOps_cons_of (exec_txStep_sending hsend hw) [], rfl, rfl, rfl⟩
  | cons nxt rest ih =>
    obtain ⟨t, hrun, htrace, hidle, hcustom⟩ := ih (seg := nxt)
      (s := (s.setTx (txAfter s.cfg s.tx (nxt :: rest))).setTrace (s.trace ++ [seg])) hsend rfl
    refine ⟨t, ?_, ?_, hidle, hcustom⟩
    · rw [List.length_cons, List.replicate_succ, runOps_cons_of (exec_txStep_sending hsend hw), hrun]
    · simpa using htrace

/-- A SEND in range and as many TX_STEPs as its waveform has segments emit the waveform and end the
send. -/
theorem runOps_send_txSteps {s : State} {cmd : Command} (hsel : cmd.sel.toNat < s.cfg.numProfiles)
    (hidle : s.tx.active = false) :
    ∃ t, runOps (.send cmd :: List.replicate (waveOf s cmd).length .txStep) s = .next t
      ∧ t.trace = s.trace ++ waveOf s cmd ∧ t.tx.active = false ∧ t.custom = s.custom := by
  rw [runOps_cons_of (exec_send cmd s)]
  cases hw : waveOf s cmd with
  | nil => exact ⟨s, by rw [sendCommand_dropped (.inr hw)]; rfl, (List.append_nil _).symm, hidle, rfl⟩
  | cons seg rest =>
    rw [sendCommand_starts (selectorOutOfRange_eq_false hsel) hw]
    exact runOps_txSteps (s := s.setTx _) rfl hw

/-- Settles O39: each of the two states emits its own waveform of the command, and these are equal because
the configurations and the profiles are. -/
theorem sendsOfOneCommandAreEqual : Obligations.SendsOfOneCommandAreEqual := by
  intro s s' cmd hcfg hprofile hsel hidle hidle'
  have hwave : waveOf s' cmd = waveOf s cmd := by rw [waveOf, waveOf, ← hprofile, hcfg]
  obtain ⟨t, hrun, htrace, hend, hcustom⟩ := runOps_send_txSteps hsel hidle
  obtain ⟨t', hrun', htrace', hend', -⟩ := runOps_send_txSteps (hcfg ▸ hsel) hidle'
  rw [hwave] at hrun' htrace'
  rw [← length_waveOf s cmd]
  exact ⟨t, t', hrun, hrun', htrace, htrace', hend, hend', hcustom⟩

/-! ## The end of a send (45_frame_transmitter.md R206) -/

/-- The last segment of a send of a run is the low one of a frame's end gap. -/
theorem TxInv.last_low {s : State} {seg : Segment} (hi : TxInv s) (hsend : s.tx.active = true)
    (hw : s.tx.wave = [seg]) : seg.level = false := by
  obtain ⟨-, hne, hdrop, -, -⟩ := hi.2 hsend
  have hrepeat : s.cfg.repeatCount ≠ 0 := fun h => by
    rw [hdrop, waveOf_eq_nil.2 h, List.drop_nil] at hne
    exact hne rfl
  obtain ⟨-, init, hend⟩ := wave_ends (ident := profileOf s.cfg s.custom s.tx.cmd.sel.toNat)
    (cmd := s.tx.cmd) hrepeat
  have hlast : (waveOf s s.tx.cmd).take s.tx.idx ++ [seg]
      = init ++ [⟨false, s.cfg.gapMult * s.cfg.t⟩] := by
    rw [← hw, hdrop, List.take_append_drop]
    exact hend
  rw [(List.append_singleton_inj.1 hlast).2]

/-- The ticks that bring an armed timer's count to TH are one FIRE. -/
theorem runOps_ticks_threshold {s : State} (hidle : s.tx.active = false)
    (harmed : s.bt.armed = true) (hlt : s.bt.elapsed < s.cfg.idleThreshold) :
    runOps (List.replicate (s.cfg.idleThreshold - s.bt.elapsed) .onTick) s = exec .fire s := by
  obtain ⟨n, hn⟩ : ∃ n, s.cfg.idleThreshold = s.bt.elapsed + n + 1 := Nat.exists_eq_add_of_lt hlt
  have hcount := runOps_ticks_count (s := s) (k := s.bt.elapsed) (n := n) hidle (by omega)
  rw [← harmed, State.setBt_self] at hcount
  rw [hn, Nat.add_assoc, Nat.add_sub_cancel_left, List.replicate_succ', runOps_append_of hcount,
    runOps_singleton, harmed, exec_onTick_at _ hidle, if_pos hn.symm]

/-- Settles O40: the segment emitted is the low one of the end gap, and the timer, which TX_STEP does not
touch, counts on from where it stands. -/
theorem endOfASend : Obligations.EndOfASend := by
  intro s seg hi hti hsend hw
  have hlow : txOut s = false := (txOut_sending hsend hw).trans (hi.last_low hsend hw)
  refine ⟨_, exec_txStep_sending hsend hw, rfl, hlow, txOut_idle rfl, rfl, modeOf_notSending rfl,
    fun harmed => ?_⟩
  exact runOps_ticks_threshold
    (s := (s.setTx (txAfter s.cfg s.tx [])).setTrace (s.trace ++ [seg])) rfl harmed hti.1

/-! ## Blocking during a send (45_frame_transmitter.md R207, 20_memory.md R74) -/

/-- What every event of an agent but a reset leaves of a state with a send in progress: the custom slot,
the transmitter or its next position, the timer or its restart, and the waiting bytes with at most one
more. -/
structure Undisturbed (s t : State) : Prop where
  cfg : t.cfg = s.cfg
  custom : t.custom = s.custom
  tx : t.tx = s.tx ∨ (1 < s.tx.cnt ∧ t.tx = { s.tx with cnt := s.tx.cnt - 1 })
    ∨ t.tx = txAfter s.cfg s.tx s.tx.wave.tail
  bt : t.bt = s.bt ∨ t.bt = { armed := true, elapsed := 0 }
  live : ∃ more, more.length ≤ 1 ∧ liveBytes t = liveBytes s ++ more

theorem Undisturbed.cmd {s t : State} (h : Undisturbed s t) : t.tx.cmd = s.tx.cmd := by
  rcases h.tx with htx | ⟨-, htx⟩ | htx <;> rw [htx]
  exact txAfter_cmd ..

theorem undisturbed_refl (s : State) : Undisturbed s s :=
  ⟨rfl, rfl, .inl rfl, .inl rfl, [], Nat.zero_le _, (List.append_nil _).symm⟩

/-- ON_BYTE appends its byte or drops it, and restarts the timer. -/
theorem onByteOp_undisturbed {s t : State} {b : Byte} (h : onByteOp b s = .ok t) (hi : RingInv s) :
    Undisturbed s t := by
  have hf := onByteOp_frame h
  have hlive : ∃ more, more.length ≤ 1 ∧ liveBytes t = liveBytes s ++ more := by
    rw [onByteOp_liveBytes h hi]
    cases ringFull s
    · exact ⟨[b], Nat.le_refl 1, rfl⟩
    · exact ⟨[], Nat.zero_le 1, (List.append_nil _).symm⟩
  exact ⟨onByteOp_cfg h, by rw [hf]; rfl, .inl (by rw [hf]; rfl), .inr (by rw [hf]; rfl), hlive⟩

theorem sampleOp_undisturbed {s t : State} {bit : Bool} (h : sampleOp bit s = .ok t)
    (hi : RingInv s) : Undisturbed s t := by
  rcases sampleOp_cases h with ⟨-, rfl⟩ | ⟨-, hbyte⟩
  · exact { undisturbed_refl s with }
  · exact { onByteOp_undisturbed hbyte hi with }

theorem stepTx_undisturbed {s t : State} (h : stepTx s = .ok t) : Undisturbed s t := by
  rcases stepTx_cases h with ⟨-, rfl⟩ | ⟨-, seg, rest, hw, rfl⟩
  · exact undisturbed_refl _
  · exact { undisturbed_refl s with tx := .inr (.inr (by rw [hw]; rfl)) }

/-- An operation of an agent: a tick is ignored during a send. -/
theorem exec_undisturbed {i : Instr} {s t : State} (ha : agentOp i = true) (hreset : i ≠ .reset)
    (hi : RingInv s) (hsend : s.tx.active = true) (h : exec i s = .next t) : Undisturbed s t := by
  cases i with
  | sample bit => exact sampleOp_undisturbed (settle_next.1 h) hi
  | deselect => cases h; exact { undisturbed_refl s with }
  | onTick =>
    rw [exec_onTick_ignored (.inr hsend)] at h
    cases h
    exact undisturbed_refl s
  | txStep => exact stepTx_undisturbed (settle_next.1 h)
  | reset => exact absurd rfl hreset
  | _ => exact absurd ha Bool.false_ne_true

theorem byteOp_undisturbed {b : Byte} {s t : State} (h : byteOp b s = .next t) (hi : RingInv s) :
    Undisturbed s t :=
  { onByteOp_undisturbed (settle_next.1 (byteOp_next h)) hi with }

/-- A cycle without a reset: the receiver's byte, if one is completed, and one cycle of the sequencer. -/
theorem cycle_undisturbed {p : Pins} {s t : State} (hr : p.rst = false) (hi : RingInv s)
    (hsend : s.tx.active = true) (h : cycle p s = .next t) : Undisturbed s t := by
  have hcfg := cycle_cfg h
  obtain ⟨htx, hcustom⟩ := cycle_sending_tx hr hsend h
  have hnext : t.tx = s.tx ∨ (1 < s.tx.cnt ∧ t.tx = { s.tx with cnt := s.tx.cnt - 1 })
      ∨ t.tx = txAfter s.cfg s.tx s.tx.wave.tail := by
    by_cases hcnt : 1 < s.tx.cnt
    · exact .inr (.inl ⟨hcnt, htx.trans (txNextCycle_inside hcnt)⟩)
    · exact .inr (.inr (htx.trans (txNextCycle_segEnd hcnt)))
  obtain ⟨u, hu, hrb, hbt⟩ : ∃ u, Undisturbed s u ∧ t.rb = u.rb ∧ t.bt = u.bt := by
    cases hb : byteEvent (portWord s p) with
    | true =>
      obtain ⟨u, hu, hkept⟩ := cycle_byte hr hb h
      exact ⟨u, onByteOp_undisturbed hu hi, hkept⟩
    | false =>
      obtain ⟨hbt, hrb⟩ := cycle_sending hr hb hsend h
      exact ⟨s, undisturbed_refl s, hrb, hbt⟩
  exact ⟨hcfg, hcustom, hnext, hbt ▸ hu.bt, liveBytes_congr hrb (hcfg.trans hu.cfg.symm) ▸ hu.live⟩

theorem stepAgenda_undisturbed {s t : State} (hi : RunInv s) (hsend : s.tx.active = true)
    (hreset : resetsNext s = false) (h : stepAgenda s = .next t) : Undisturbed s t := by
  have hring : RingInv s := hi.1.2.1
  cases ha : s.agenda with
  | nil =>
    rw [stepAgenda_nil ha] at h
    exact stepTx_undisturbed (settle_next.1 h)
  | cons e rest =>
    obtain ⟨hagent, -⟩ := runInv_uncons hi ha
    cases e with
    | op i =>
      rw [stepAgenda_op ha] at h
      have hi : i ≠ .reset := by
        rintro rfl
        simp [resetsNext, ha] at hreset
      exact { exec_undisturbed (s := s.setAgenda rest) hagent hi hring hsend (stepOp_next h) with }
    | byte b =>
      rw [stepAgenda_byte ha] at h
      exact { byteOp_undisturbed h hring with }
    | waitTx =>
      rw [stepAgenda_waitTx ha, stepWait, if_pos hsend] at h
      exact stepTx_undisturbed (settle_next.1 h)
    | cycle p =>
      rw [stepAgenda_cycle ha] at h
      have hr : p.rst = false := by simpa [resetsNext, ha] using hreset
      exact { cycle_undisturbed (s := s.setAgenda rest) hr hring hsend h with }

/-- Settles O41, by the kind of the oldest entry of the agenda; the waveform is a function of the
configuration, the custom slot and the command, which all stay. -/
theorem sendIsNotDisturbed : Obligations.SendIsNotDisturbed := by
  intro s t hi hsend hreset h
  rw [step_of_wellFormed hi.1.1] at h
  have hu := stepAgenda_undisturbed hi hsend hreset h
  refine ⟨hu.cmd, hu.custom, by rw [hu.cmd, waveOf_congr hu.cfg hu.custom], ?_, hu.bt, hu.live⟩
  refine hu.tx.imp_right (Or.imp_right fun htx => ⟨htx, ?_, ?_⟩)
  · rw [htx, txAfter_wave]
  · rw [htx, txAfter_active _ _ _ hsend]

end Sys2Proof.Machine

/-! SUPPORT. Progress (60_exceptions.md R230): what an agent runs in a state of a run answers a next state,
so that a step stops only where the spec refuses the run, at a misaligned BYTE (40_serial_receiver.md R104)
and at a cycle that breaks the host's serial timing (70_reset_and_hazards.md R269). -/

namespace Sys2Proof.Machine

/-! ## Operations -/

theorem wellFormed_of_agentOp {i : Instr} (ha : agentOp i = true) : i.wellFormed = true := by
  cases i with
  | cmdShort sel => exact absurd ha Bool.false_ne_true
  | _ => rfl

/-- The PUSH and the POPs of an agent's operation access RBS below C by the buffer's invariant; its TX_STEP
finds a segment by the transmitter's. -/
theorem exec_agentOp_total {i : Instr} {s : State} (ha : agentOp i = true) (hi : RunInv s) :
    ∃ t, exec i s = .next t := by
  obtain ⟨⟨-, hring, -⟩, htransmit, -⟩ := hi
  cases i with
  | sample bit => exact (sampleOp_total bit hring).imp fun _ => settle_next.2
  | deselect => exact ⟨_, rfl⟩
  | onTick => exact (onTickOp_total hring).imp fun _ => settle_next.2
  | txStep => exact (stepTx_total htransmit).imp fun _ => settle_next.2
  | reset => exact ⟨_, rfl⟩
  | _ => exact absurd ha Bool.false_ne_true

/-- Operations of the agents one after the other: each leaves a state of a run to the next. -/
theorem runOps_total {is : List Instr} {s : State} (ha : ∀ i ∈ is, agentOp i = true)
    (hi : RunInv s) : ∃ t, runOps is s = .next t := by
  induction is generalizing s with
  | nil => exact ⟨s, rfl⟩
  | cons i is ih =>
    rw [List.forall_mem_cons] at ha
    obtain ⟨u, hu⟩ := exec_agentOp_total ha.1 hi
    rw [runOps_cons_of hu]
    exact ih ha.2 (exec_runInv ha.1 hi hu)

/-! ## Events -/

theorem stepOp_total {i : Instr} {s : State} (ha : agentOp i = true) (hi : RunInv s) :
    ∃ t, stepOp i s = .next t := by
  rw [stepOp, if_pos (wellFormed_of_agentOp ha)]
  exact exec_agentOp_total ha hi

theorem byteOp_total {s : State} (b : Byte) (hcount : s.rx.count = 0) (hi : RingInv s) :
    ∃ t, byteOp b s = .next t := by
  rw [byteOp_aligned b hcount]
  exact (onByteOp_total (s := s.setRx { shift := b, count := 0 }) b hi).imp fun _ => settle_next.2

theorem stepWait_total {s : State} (rest : List Event) (hi : RunInv s) :
    ∃ t, stepWait rest s = .next t := by
  unfold stepWait
  split
  · exact exec_agentOp_total rfl hi
  · exact ⟨_, rfl⟩

/-- A cycle carries operations of the agents only (30_encoding.md R92). -/
theorem agentOp_of_mem_decodePort {w : PortWord} {i : Instr} (h : i ∈ decodePort w) :
    agentOp i = true := by
  unfold decodePort at h
  split at h
  · rw [List.mem_singleton.1 h]; rfl
  · rcases List.mem_append.1 h with h | hsegEnd
    · rcases List.mem_append.1 h with hreceiver | htick
      · exact receiverOps_agentOp hreceiver
      · exact agentOp_of_mem_ite rfl htick
    · exact agentOp_of_mem_ite rfl hsegEnd

theorem cycle_total {p : Pins} {s : State} (hk : timingKept s.cfg.sampleEdge s.mon p = true)
    (hi : RunInv s) : ∃ t, cycle p s = .next t := by
  have hstart : RunInv (cycleStart p s) := runInv_congr hi rfl rfl rfl rfl rfl rfl
  obtain ⟨u, hu⟩ := runOps_total (fun _ => agentOp_of_mem_decodePort (w := portWord s p)) hstart
  rw [cycle_eq, if_pos hk, hu]
  split
  · exact ⟨u, rfl⟩
  · exact ⟨_, rfl⟩

theorem cycle_timingBroken {p : Pins} {s : State}
    (hk : timingKept s.cfg.sampleEdge s.mon p = false) : cycle p s = .refused .serialTiming := by
  rw [cycle_eq, hk, if_neg Bool.false_ne_true]

/-- Settles O54, by the kind of the oldest entry of the agenda. -/
theorem theBlockNeverStops : Obligations.TheBlockNeverStops := by
  intro s hi
  have ⟨⟨hc, hring, _⟩, _, _⟩ := hi
  rw [step_of_wellFormed hc]
  cases ha : s.agenda with
  | nil =>
    rw [stepAgenda_nil ha]
    exact .inl (exec_agentOp_total rfl hi)
  | cons e rest =>
    obtain ⟨hagent, hrest⟩ := runInv_uncons hi ha
    cases e with
    | op i =>
      rw [stepAgenda_op ha]
      exact .inl (stepOp_total hagent hrest)
    | byte b =>
      rw [stepAgenda_byte ha]
      by_cases hcount : s.rx.count = 0
      · exact .inl (byteOp_total (s := s.setAgenda rest) b hcount hring)
      · exact .inr (.inl ⟨b, rest, rfl, hcount,
          byteOp_misaligned (s := s.setAgenda rest) b hcount⟩)
    | waitTx =>
      rw [stepAgenda_waitTx ha]
      exact .inl (stepWait_total rest hi)
    | cycle p =>
      rw [stepAgenda_cycle ha]
      cases hk : timingKept s.cfg.sampleEdge s.mon p with
      | true => exact .inl (cycle_total (s := s.setAgenda rest) hk hrest)
      | false => exact .inr (.inr ⟨p, rest, rfl, hk, cycle_timingBroken (s := s.setAgenda rest) hk⟩)

end Sys2Proof.Machine

/-! SUPPORT. Reset and hazards (70_reset_and_hazards.md): the state after reset (R261), a quiescent block
(R273), the bytes past the capacity (R265), and the host's serial timing over a run of cycles (R269). -/

namespace Sys2Proof.Machine

/-! ## The state after reset (70_reset_and_hazards.md R261) -/

/-- Settles O50: a RESET writes the values that `State.resetOf` already has. -/
theorem resetStateIsIdle : Obligations.ResetStateIsIdle := by
  intro c
  exact ⟨modeOf_notSending rfl, liveBytes_eq_nil.2 rfl, rfl, txOut_idle rfl, rfl, rfl, rfl,
    exec_reset (State.resetOf c), rfl⟩

/-! ## Quiescence (70_reset_and_hazards.md R273) -/

theorem exec_txStep_idle {s : State} (h : s.tx.active = false) : exec .txStep s = .next s :=
  settle_next.2 (if_neg (by rw [h]; exact Bool.false_ne_true))

theorem exec_txStep_emptyWave {s : State} (hsend : s.tx.active = true) (hwave : s.tx.wave = []) :
    exec .txStep s = .fault .emptyWave := by
  have hstep : stepTx s = .error .emptyWave := by rw [stepTx, if_pos hsend, hwave]
  exact congrArg settle hstep

theorem quiescent_iff {s : State} : quiescent s = true ↔
    s.tx.active = false ∧ s.bt.armed = false ∧ s.rx.count = 0 := by
  simp [quiescent, and_assoc]

/-- Settles O38: without a send TX_STEP does nothing, and it is all that a step with nothing pending does;
with the timer disarmed a tick is ignored. -/
theorem quiescentBlockHolds : Obligations.QuiescentBlockHolds := by
  intro s
  refine ⟨exec_txStep_idle, fun hq => ?_, fun hq hc hagenda => ?_, exec_txStep_emptyWave⟩
  · obtain ⟨-, hdisarmed, -⟩ := quiescent_iff.1 hq
    exact exec_onTick_ignored (.inl hdisarmed)
  · obtain ⟨hidle, -, -⟩ := quiescent_iff.1 hq
    rw [step_of_wellFormed hc, stepAgenda_nil hagenda, exec_txStep_idle hidle]

/-! ## Bytes past the capacity (70_reset_and_hazards.md R265) -/

theorem take_take_append {α : Type} (n : Nat) (l l' : List α) :
    ((l.take n) ++ l').take n = (l ++ l').take n := by
  rw [List.take_append, List.take_append, List.take_take, Nat.min_self, List.length_take]
  congr 2
  omega

/-- ON_BYTE in one equation, at a full buffer and with room: the first C bytes stay. -/
theorem onByteOp_liveBytes_take {s t : State} {b : Byte} (h : onByteOp b s = .ok t) (hi : RingInv s) :
    liveBytes t = (liveBytes s ++ [b]).take s.cfg.capacity := by
  have ⟨_, _, hsize, _⟩ := hi
  rw [onByteOp_liveBytes h hi]
  split
  · rename_i hfull
    exact (List.take_left' ((length_liveBytes s).trans (of_decide_eq_true hfull))).symm
  · rename_i hroom
    have hne : s.rb.size ≠ s.cfg.capacity := fun heq => hroom (decide_eq_true heq)
    rw [List.take_of_length_le]
    rw [List.length_append, length_liveBytes, List.length_singleton]
    omega

/-- A run of ON_BYTEs; the timer is as the last of them leaves it, or as it was before if there is none. -/
theorem runOps_onBytes (bytes : List Byte) {s : State} (hi : RingInv s) :
    ∃ t, runOps (bytes.map Instr.onByte) s = .next t
      ∧ liveBytes t = (liveBytes s ++ bytes).take s.cfg.capacity
      ∧ (s.bt = { armed := true, elapsed := 0 } ∨ bytes ≠ [] →
          t.bt = { armed := true, elapsed := 0 }) := by
  induction bytes generalizing s with
  | nil =>
    obtain ⟨-, -, hsize, -⟩ := hi
    refine ⟨s, rfl, ?_, fun h => h.resolve_right fun hne => hne rfl⟩
    rw [List.append_nil, List.take_of_length_le (by rwa [length_liveBytes])]
  | cons b bytes ih =>
    obtain ⟨u, hu⟩ := onByteOp_total b hi
    have hbt : u.bt = { armed := true, elapsed := 0 } := by rw [onByteOp_frame hu]; rfl
    obtain ⟨t, ht, hlive, htimer⟩ := ih (onByteOp_keeps hu hi)
    have hbyte : exec (.onByte b) s = .next u := settle_next.2 hu
    refine ⟨t, (runOps_cons_of hbyte _).trans ht, ?_, fun _ => htimer (.inl hbt)⟩
    rw [hlive, onByteOp_cfg hu, onByteOp_liveBytes_take hu hi, take_take_append, List.append_assoc,
      List.singleton_append]

/-- Settles O16, by induction on the bytes: each ON_BYTE keeps the first C of what is held and its byte. -/
theorem bytesPastCapacityAreLost : Obligations.BytesPastCapacityAreLost := by
  intro bytes s hi hne
  obtain ⟨t, hrun, hlive, htimer⟩ := runOps_onBytes bytes hi
  exact ⟨t, hrun, hlive, htimer (.inr hne)⟩

/-! ## The pins' history over a run of cycles (70_reset_and_hazards.md R269) -/

/-- The pins' history before cycle `k` of a run that starts with the history `m`. -/
def monitorAt (e : SampleEdge) (m : Monitor) (ps : List Pins) (k : Nat) : Monitor :=
  (ps.take k).foldl (nextMonitor e) m

/-- Every cycle of a run keeps R269 by the history before it. -/
def TimingKeptThroughout (e : SampleEdge) (m : Monitor) (ps : List Pins) : Prop :=
  ∀ k p, ps[k]? = some p → timingKept e (monitorAt e m ps k) p = true

theorem monitorAt_succ {e : SampleEdge} {m : Monitor} {ps : List Pins} {k : Nat} {p : Pins}
    (h : ps[k]? = some p) : monitorAt e m ps (k + 1) = nextMonitor e (monitorAt e m ps k) p := by
  simp [monitorAt, List.take_add_one, h]

theorem timingKeptThroughout_cons {e : SampleEdge} {m : Monitor} {p : Pins} {ps : List Pins} :
    TimingKeptThroughout e m (p :: ps)
      ↔ timingKept e m p = true ∧ TimingKeptThroughout e (nextMonitor e m p) ps := by
  refine ⟨fun h => ⟨h 0 p rfl, fun k => h (k + 1)⟩, fun ⟨hfirst, hrest⟩ k q hq => ?_⟩
  cases k with
  | zero => exact Option.some.inj hq ▸ hfirst
  | succ k => exact hrest k q hq

theorem runOps_mon {is : List Instr} {s t : State} (h : runOps is s = .next t) : t.mon = s.mon := by
  induction is generalizing s with
  | nil => cases h; rfl
  | cons i is ih =>
    obtain ⟨u, hu, ht⟩ := runOps_cons_next.1 h
    exact (ih ht).trans (exec_mon hu)

theorem countCycle_mon (s u : State) : (countCycle s u).mon = u.mon := by
  unfold countCycle
  split <;> rfl

theorem cycle_mon {p : Pins} {s t : State} (h : cycle p s = .next t) :
    t.mon = nextMonitor s.cfg.sampleEdge s.mon p := by
  obtain ⟨u, hu, ht⟩ := cycle_runsOps h
  have hmon : u.mon = nextMonitor s.cfg.sampleEdge s.mon p := runOps_mon hu
  rcases ht with rfl | rfl
  · exact hmon
  · exact (countCycle_mon s u).trans hmon

theorem runCycles_timingKept {ps : List Pins} {s t : State} (h : runCycles ps s = .next t) :
    TimingKeptThroughout s.cfg.sampleEdge s.mon ps := by
  induction ps generalizing s with
  | nil => exact nofun
  | cons p ps ih =>
    obtain ⟨u, hu, hrest⟩ := runCycles_cons_next.1 h
    have htail := ih hrest
    rw [cycle_cfg hu, cycle_mon hu] at htail
    exact timingKeptThroughout_cons.2 ⟨cycle_timingKept hu, htail⟩

theorem runCycles_total {ps : List Pins} {s : State} (hi : RunInv s)
    (h : TimingKeptThroughout s.cfg.sampleEdge s.mon ps) : ∃ t, runCycles ps s = .next t := by
  induction ps generalizing s with
  | nil => exact ⟨s, rfl⟩
  | cons p ps ih =>
    obtain ⟨hfirst, hrest⟩ := timingKeptThroughout_cons.1 h
    obtain ⟨u, hu⟩ := cycle_total hfirst hi
    rw [← cycle_mon hu, ← cycle_cfg hu] at hrest
    exact (ih (cycle_runInv hi hu) hrest).imp fun _ ht => runCycles_cons_next.2 ⟨u, hu, ht⟩

/-! ### What a cycle sees of the pins -/

/-- `sclk` changes in this cycle. -/
def sclkChanged (m : Monitor) (p : Pins) : Bool := pinChanged m SerialPins.sclk p

/-- `sdi` or `ss_n` changes in this cycle. -/
def dataChanged (m : Monitor) (p : Pins) : Bool :=
  pinChanged m SerialPins.sdi p || pinChanged m SerialPins.ssn p

/-- How many cycles ago `sdi` or `ss_n` last changed, saturating at 3. -/
def dataAge (m : Monitor) : Nat := min m.sdiAge m.ssAge

/-- R269 in one cycle, with the changes of `sdi` and of `ss_n` as one kind of event. -/
theorem timingKept_iff {e : SampleEdge} {m : Monitor} {p : Pins} : timingKept e m p = true ↔
    (sclkChanged m p = true → 3 ≤ m.sclkAge)
    ∧ (hostEdge e m p = true → dataChanged m p = false ∧ 3 ≤ dataAge m)
    ∧ (dataChanged m p = true → 3 ≤ m.edgeAge) := by
  simp only [timingKept, sclkChanged, dataChanged, dataAge, Bool.and_eq_true, Bool.or_eq_true, Bool.not_eq_true',
    decide_eq_true_eq, Nat.le_min, ← Bool.not_eq_true]
  tauto

/-- The age of either of two kinds of event is the smaller of their ages. -/
theorem nextAge_or (b b' : Bool) (n n' : Nat) :
    nextAge (b || b') (min n n') = min (nextAge b n) (nextAge b' n') := by
  cases b <;> cases b' <;> (simp only [nextAge]; grind)

/-! ### The events of a run and their ages -/

/-- Cycle `k` of a run shows an event of the pins. -/
def HappensAt (e : SampleEdge) (m : Monitor) (ps : List Pins) (event : Monitor → Pins → Bool)
    (k : Nat) : Prop :=
  ∃ p, ps[k]? = some p ∧ event (monitorAt e m ps k) p = true

/-- `age` counts the cycles since the last `event`. -/
def CountsSince (e : SampleEdge) (event : Monitor → Pins → Bool) (age : Monitor → Nat) : Prop :=
  ∀ m p, age (nextMonitor e m p) = nextAge (event m p) (age m)

/-- R269 by the events that the cycles of a run see. -/
def EventsApart (e : SampleEdge) (m : Monitor) (ps : List Pins) : Prop :=
  (∀ i j, i < j → HappensAt e m ps sclkChanged i → HappensAt e m ps sclkChanged j → i + 3 ≤ j)
  ∧ (∀ i j, HappensAt e m ps (hostEdge e) i → HappensAt e m ps dataChanged j →
      i + 3 ≤ j ∨ j + 3 ≤ i)

section
variable {e : SampleEdge} {m : Monitor} {ps : List Pins} {event : Monitor → Pins → Bool}
  {age : Monitor → Nat} {i n : Nat}

theorem sclkAge_countsSince : CountsSince e sclkChanged Monitor.sclkAge := fun _ _ => rfl

theorem edgeAge_countsSince : CountsSince e (hostEdge e) Monitor.edgeAge := fun _ _ => rfl

theorem dataAge_countsSince : CountsSince e dataChanged dataAge :=
  fun _ _ => (nextAge_or _ _ _ _).symm

/-- The age is at most the distance to any event of the run, whatever it was at the start. -/
theorem CountsSince.age_le (hage : CountsSince e event age) (hn : n ≤ ps.length) (hin : i < n)
    (hevent : HappensAt e m ps event i) : i + age (monitorAt e m ps n) ≤ n := by
  induction n with
  | zero => exact absurd hin (Nat.not_lt_zero i)
  | succ n ih =>
    rw [monitorAt_succ (List.getElem?_eq_getElem hn), hage, nextAge]
    split
    · omega
    · rename_i hquiet
      have hne : i ≠ n := by
        rintro rfl
        obtain ⟨p, hp, hevent⟩ := hevent
        rw [List.getElem?_eq_getElem hn] at hp
        exact hquiet (Option.some.inj hp ▸ hevent)
      have := ih (Nat.le_of_succ_le hn) (by omega)
      omega

/-- An age below 3 comes from an event of the run, if it was not below 3 at the start. -/
theorem CountsSince.exists_event (hage : CountsSince e event age) (hstart : 3 ≤ age m)
    (hn : n ≤ ps.length) (hlt : age (monitorAt e m ps n) < 3) :
    ∃ i, HappensAt e m ps event i ∧ i < n ∧ i + age (monitorAt e m ps n) = n := by
  induction n with
  | zero => exact absurd hlt (Nat.not_lt.2 hstart)
  | succ n ih =>
    have hget := List.getElem?_eq_getElem hn
    rw [monitorAt_succ hget, hage, nextAge] at hlt ⊢
    split at hlt
    · rename_i hevent
      exact ⟨n, ⟨_, hget, hevent⟩, Nat.lt_succ_self n, by rw [if_pos hevent]⟩
    · rename_i hquiet
      obtain ⟨i, hi, hin, heq⟩ := ih (Nat.le_of_succ_le hn) (by omega)
      exact ⟨i, hi, by omega, by rw [if_neg hquiet]; omega⟩

theorem CountsSince.apart (hage : CountsSince e event age) (hn : n ≤ ps.length) (hin : i < n)
    (hevent : HappensAt e m ps event i) (h : 3 ≤ age (monitorAt e m ps n)) : i + 3 ≤ n := by
  have := hage.age_le hn hin hevent
  omega

theorem CountsSince.three_le (hage : CountsSince e event age) (hstart : 3 ≤ age m)
    (hn : n ≤ ps.length) (h : ∀ i, HappensAt e m ps event i → i < n → i + 3 ≤ n) :
    3 ≤ age (monitorAt e m ps n) := by
  by_contra hlt
  obtain ⟨i, hi, hin, heq⟩ := hage.exists_event hstart hn (Nat.lt_of_not_le hlt)
  have := h i hi hin
  omega

/-! ### R269 over a run -/

theorem eventsApart_of_timingKept (h : TimingKeptThroughout e m ps) : EventsApart e m ps := by
  refine ⟨fun i j hij hi ⟨p, hp, hclock⟩ => ?_, fun i j hi hj => ?_⟩
  · obtain ⟨hlen, -⟩ := List.getElem?_eq_some_iff.1 hp
    obtain ⟨hphase, -, -⟩ := timingKept_iff.1 (h j p hp)
    exact sclkAge_countsSince.apart hlen.le hij hi (hphase hclock)
  · have ⟨p, hp, hedge⟩ := hi
    have ⟨q, hq, hdata⟩ := hj
    obtain ⟨hleni, -⟩ := List.getElem?_eq_some_iff.1 hp
    obtain ⟨hlenj, -⟩ := List.getElem?_eq_some_iff.1 hq
    obtain ⟨-, hedgeKept, -⟩ := timingKept_iff.1 (h i p hp)
    obtain ⟨-, -, hdataKept⟩ := timingKept_iff.1 (h j q hq)
    obtain ⟨hstable, hage⟩ := hedgeKept hedge
    rcases Nat.lt_trichotomy i j with hij | rfl | hji
    · exact .inl (edgeAge_countsSince.apart hlenj.le hij hi (hdataKept hdata))
    · obtain rfl := Option.some.inj (hp.symm.trans hq)
      rw [hdata] at hstable
      cases hstable
    · exact .inr (dataAge_countsSince.apart hleni.le hji hj hage)

theorem timingKept_of_eventsApart (hclock : 3 ≤ m.sclkAge) (hedge : 3 ≤ m.edgeAge)
    (hdata : 3 ≤ dataAge m) (h : EventsApart e m ps) : TimingKeptThroughout e m ps := by
  intro k p hp
  obtain ⟨hphase, hapart⟩ := h
  have hlen : k ≤ ps.length := (List.getElem?_eq_some_iff.1 hp).1.le
  refine timingKept_iff.2 ⟨fun hk => ?_, fun hk => ⟨?_, ?_⟩, fun hk => ?_⟩
  · exact sclkAge_countsSince.three_le hclock hlen fun i hi hik => hphase i k hik hi ⟨p, hp, hk⟩
  · refine Bool.eq_false_iff.2 fun hchange => ?_
    have := hapart k k ⟨p, hp, hk⟩ ⟨p, hp, hchange⟩
    omega
  · refine dataAge_countsSince.three_le hdata hlen fun j hj hjk => ?_
    have := hapart k j ⟨p, hp, hk⟩ hj
    omega
  · refine edgeAge_countsSince.three_le hedge hlen fun i hi hik => ?_
    have := hapart i k hi ⟨p, hp, hk⟩
    omega

/-! ### The events as changes between neighbouring cycles -/

theorem happensAt_succ {k : Nat} : HappensAt e m ps event (k + 1) ↔
    ∃ p q, ps[k]? = some p ∧ ps[k + 1]? = some q
      ∧ event (nextMonitor e (monitorAt e m ps k) p) q = true := by
  constructor
  · rintro ⟨q, hq, hevent⟩
    have hk : k < ps.length := Nat.lt_of_succ_lt (List.getElem?_eq_some_iff.1 hq).1
    have hp := List.getElem?_eq_getElem hk
    exact ⟨_, q, hp, hq, monitorAt_succ hp ▸ hevent⟩
  · rintro ⟨p, q, hp, hq, hevent⟩
    exact ⟨q, hq, by rwa [monitorAt_succ hp]⟩

theorem pinMoves_iff {α : Type} {pin : Pins → α} {k : Nat} : pinMoves pin ps k ↔
    ∃ p q, ps[k]? = some p ∧ ps[k + 1]? = some q ∧ pin p ≠ pin q := by
  constructor
  · rintro ⟨hne, hk⟩
    have hp := List.getElem?_eq_getElem (Nat.lt_of_succ_lt hk)
    have hq := List.getElem?_eq_getElem hk
    rw [hp, hq] at hne
    exact ⟨_, _, hp, hq, fun h => hne (congrArg some h)⟩
  · rintro ⟨p, q, hp, hq, hne⟩
    refine ⟨?_, (List.getElem?_eq_some_iff.1 hq).1⟩
    rw [hp, hq]
    exact fun h => hne (Option.some.inj h)

theorem happensAt_sclkChanged {k : Nat} :
    HappensAt e m ps sclkChanged (k + 1) ↔ pinMoves Pins.sclk ps k := by
  rw [happensAt_succ, pinMoves_iff]
  simp only [sclkChanged, pinChanged, nextMonitor, serialPins, bne_iff_ne]

theorem happensAt_dataChanged {k : Nat} : HappensAt e m ps dataChanged (k + 1)
    ↔ pinMoves Pins.sdi ps k ∨ pinMoves Pins.ssn ps k := by
  rw [happensAt_succ, pinMoves_iff, pinMoves_iff]
  simp only [dataChanged, pinChanged, nextMonitor, serialPins, Bool.or_eq_true, bne_iff_ne, and_or_left,
    exists_or]

theorem hostEdge_iff {p : Pins} : hostEdge e m p = true ↔
    pinChanged m SerialPins.sclk p = true ∧ p.sclk = decide (e = .rising) := by
  cases e <;> simp [hostEdge]

theorem happensAt_hostEdge {k : Nat} :
    HappensAt e m ps (hostEdge e) (k + 1) ↔ hostSamples e ps k := by
  rw [hostSamples, pinMoves_iff, happensAt_succ]
  simp only [hostEdge_iff, pinChanged, nextMonitor, serialPins, bne_iff_ne]
  constructor
  · rintro ⟨p, q, hp, hq, hne, hlevel⟩
    exact ⟨⟨p, q, hp, hq, hne⟩, by rw [hq, Option.map_some, hlevel]⟩
  · rintro ⟨⟨p, q, hp, hq, hne⟩, hlevel⟩
    rw [hq, Option.map_some] at hlevel
    exact ⟨p, q, hp, hq, hne, Option.some.inj hlevel⟩

theorem keepsSerialTiming_of_eventsApart (h : EventsApart e m ps) : keepsSerialTiming e ps := by
  obtain ⟨hphase, hapart⟩ := h
  refine ⟨fun i j hij hi hj => ?_, fun i j hi hj => ?_⟩
  · have := hphase (i + 1) (j + 1) (Nat.succ_lt_succ hij) (happensAt_sclkChanged.2 hi)
      (happensAt_sclkChanged.2 hj)
    omega
  · have := hapart (i + 1) (j + 1) (happensAt_hostEdge.2 hi) (happensAt_dataChanged.2 hj)
    omega

/-! ### The first cycle, in which nothing is known of the pins -/

theorem pinChanged_first {pin : SerialPins → Bool} {p : Pins} (h : m.last = none) :
    pinChanged m pin p = false := by
  rw [pinChanged, h]

theorem dataChanged_first {p : Pins} (h : m.last = none) : dataChanged m p = false := by
  rw [dataChanged, pinChanged_first h, pinChanged_first h, Bool.or_self]

theorem hostEdge_first {p : Pins} (h : m.last = none) : hostEdge e m p = false :=
  Bool.eq_false_iff.2 fun hp =>
    Bool.false_ne_true ((pinChanged_first h).symm.trans (hostEdge_iff.1 hp).1)

theorem not_happensAt_zero (h : ∀ p, event m p = false) : ¬ HappensAt e m ps event 0 :=
  fun ⟨p, _, hp⟩ => Bool.false_ne_true ((h p).symm.trans hp)

theorem eventsApart_of_keepsSerialTiming (hfirst : m.last = none) (h : keepsSerialTiming e ps) :
    EventsApart e m ps := by
  obtain ⟨hphase, hapart⟩ := h
  refine ⟨fun i j hij hi hj => ?_, fun i j hi hj => ?_⟩
  · obtain ⟨j, rfl⟩ := Nat.exists_eq_succ_of_ne_zero (Nat.ne_zero_of_lt hij)
    cases i with
    | zero => exact absurd hi (not_happensAt_zero fun _ => pinChanged_first hfirst)
    | succ i =>
      have := hphase i j (Nat.lt_of_succ_lt_succ hij) (happensAt_sclkChanged.1 hi)
        (happensAt_sclkChanged.1 hj)
      omega
  · cases i with
    | zero => exact absurd hi (not_happensAt_zero fun _ => hostEdge_first hfirst)
    | succ i =>
      cases j with
      | zero => exact absurd hj (not_happensAt_zero fun _ => dataChanged_first hfirst)
      | succ j =>
        have := hapart i j (happensAt_hostEdge.1 hi) (happensAt_dataChanged.1 hj)
        omega

end

/-- Settles O48: a run answers exactly as long as each cycle keeps R269 by the history before it, and the
ages of that history are the distances to the last events of the pins. -/
theorem serialTimingIsEnforced : Obligations.SerialTimingIsEnforced := by
  intro ps s
  refine ⟨fun t ht => ?_, fun hi hstart hkept => ?_⟩
  · exact keepsSerialTiming_of_eventsApart (eventsApart_of_timingKept (runCycles_timingKept ht))
  · refine runCycles_total hi ?_
    rw [hstart]
    exact timingKept_of_eventsApart (m := Monitor.start) le_rfl le_rfl le_rfl
      (eventsApart_of_keepsSerialTiming rfl hkept)

end Sys2Proof.Machine
